-- ==== Sys2Proof/Word.lean ====
section
/-! DEFINITION. The fixed-width words of the block (00_scope.md R7: a byte is 8 bits, `u8` and `u16` are unsigned; R6: `XLEN_HOST` is 32). Counts, lengths and offsets are plain natural numbers (R8: no wrap-around). -/

namespace Sys2Proof

/-- A byte of WIRE, of PAYLOAD or of a frame (R7). -/
abbrev Byte := BitVec 8

/-- A 16-bit value: a CRC (R7, R100). -/
abbrev Word16 := BitVec 16

/-- A host-port word: every host register access is 32 bits wide (R6 `XLEN_HOST`, R56). -/
abbrev Word32 := BitVec 32

end Sys2Proof
end

