-- ==== Sys2Proof/Machine/Crc.lean ====
section
/-! DEFINITION. The CRC unit (40_crc16.md R100 to R105): CRC-16/Modbus in the bit form, which the commands use, and the table and the nibble form of the source document, which are claimed to be the same function. -/

namespace Sys2Proof.Machine

/-- `POLY` (R6), kept as a named constant (93_implementation_defined.md U14). -/
def crcPoly : Word16 := 0xA001#16

/-- `SEED` (R6, R104). -/
def crcSeed : Word16 := 0xFFFF#16

/-- One bit step (R101): shift right, and exclusive-or the polynomial when the bit shifted out is 1. -/
def bitstep (c : Word16) : Word16 :=
  if c.getLsbD 0 then (c >>> 1) ^^^ crcPoly else c >>> 1

/-- `n` bit steps. -/
def bitsteps : Nat → Word16 → Word16
  | 0, c => c
  | n + 1, c => bitsteps n (bitstep c)

/-- One byte step, `update(c, d)` (R103). -/
def crcUpdate (c : Word16) (d : Byte) : Word16 := bitsteps 8 (c ^^^ d.setWidth 16)

/-- The CRC of a byte sequence (R104): the seed, then one byte step per byte in order, and no final inversion. -/
def crc16 (bs : List Byte) : Word16 := bs.foldl crcUpdate crcSeed

/-- The 16-entry table (R102): four bit steps of the index. -/
def crcTable (i : BitVec 4) : Word16 := bitsteps 4 (i.setWidth 16)

/-- One table step: the table at the low nibble, and the register shifted by four (R105). -/
def nibbleStep (c : Word16) (n : Word16) : Word16 :=
  crcTable ((c ^^^ n).extractLsb' 0 4) ^^^ (c >>> 4)

/-- The nibble form of the byte step, `update4(c, d)` (R105): the low nibble of the byte first, then the high one. -/
def crcUpdateNibbles (c : Word16) (d : Byte) : Word16 :=
  nibbleStep (nibbleStep c (d.setWidth 16)) ((d >>> 4).setWidth 16)

end Sys2Proof.Machine
end

