-- ==== Sys2Proof/Config.lean ====
section
/-! DEFINITION. What an instance of the block fixes (00_scope.md R6): the memory size `BUF_SIZE`, an argument of the model, and the two free values `INIT_WIRE` and `INIT_PAYLOAD`, the contents of the two memories after reset. -/

namespace Sys2Proof

/-- One instance's parameters. `BUF_SIZE` is an argument with 5 <= BUF_SIZE <= 4095 (R6); the bounds travel with the number, so that no state holds an instance the spec does not admit. -/
structure Config where
  /-- `BUF_SIZE`: the number of bytes in WIRE (R6, R35). -/
  bufSize : Nat
  /-- R6: 5 <= BUF_SIZE. -/
  bufSize_ge : 5 ≤ bufSize
  /-- R6: BUF_SIZE <= 4095. -/
  bufSize_le : bufSize ≤ 4095
deriving DecidableEq, Repr

/-- `PAY_SIZE = BUF_SIZE - 4`, the number of bytes in PAYLOAD (R6, R26). -/
def Config.paySize (c : Config) : Nat := c.bufSize - 4

/-- The default instance: BUF_SIZE = 512, PAY_SIZE = 508 (R6). DESIGN CHOICE: the reset state stands for it (notes/assumptions/2.md). -/
def Config.default : Config := ⟨512, by decide, by decide⟩

/-- `INIT_WIRE` (R6, R38, R232): the byte that WIRE holds at an index which nothing has written since a reset. FREE VALUE: no body, so nothing can be proved of it. DESIGN CHOICE: its first argument counts the resets, because a later reset may keep, clear or scramble the memories (R232); its second is the index. See notes/assumptions/1.md. -/
opaque Config.initWire : Nat → Nat → Byte

/-- `INIT_PAYLOAD` (R6, R38, R232): the same for PAYLOAD. FREE VALUE, as `Config.initWire`. -/
opaque Config.initPayload : Nat → Nat → Byte

end Sys2Proof
end

