-- ==== Sys2Proof/Syntax.lean ====
section
/-! DEFINITION. The command set `MBFC-1` (00_scope.md R2): the five commands of 30_encoding.md R85, one constructor per row of spec/opcode_table.json. -/

namespace Sys2Proof

/-- A command of the block, its equivalent of an instruction (R10, R80). `off` and `cnt` are unsigned numbers, never scaled or sign-extended (R81); `code` is a byte used as it stands (R82). -/
inductive Instr where
  /-- `CRC16 off, cnt`: the CRC of WIRE[off .. off+cnt) (R110). -/
  | crc16 (off cnt : Nat)
  /-- `PARSE off, cnt`: load the frame registers from WIRE[off .. off+cnt) (R120). -/
  | parse (off cnt : Nat)
  /-- `SERIALIZE off`: write the frame held in the frame registers to WIRE from off (R130). -/
  | serialize (off : Nat)
  /-- `SETEXC code`: turn the frame held into an exception frame that carries code (R133). -/
  | setexc (code : Byte)
  /-- `CHECK off, cnt`: recompute and compare the CRC of the frame in WIRE[off .. off+cnt) (R145). -/
  | check (off cnt : Nat)
deriving DecidableEq, Repr

end Sys2Proof
end

