-- ==== Sys2Proof/WellFormed.lean ====
section
/-! DEFINITION. Which commands can be written as a command word: `off` and `cnt` are each numbers from 0 to 4095, the 12-bit fields `a` and `b` (30_encoding.md R80, R81). `code` is a byte already (R82). -/

namespace Sys2Proof

/-- A number that a 12-bit operand field can name (R80, R81). -/
def fits12 (n : Nat) : Bool := decide (n < 4096)

/-- The command can be encoded: every operand fits its field (R80 to R82). -/
def wellFormed : Instr → Bool
  | .crc16 off cnt => fits12 off && fits12 cnt
  | .parse off cnt => fits12 off && fits12 cnt
  | .serialize off => fits12 off
  | .setexc _ => true
  | .check off cnt => fits12 off && fits12 cnt

end Sys2Proof
end

