-- ==== Sys2Proof/Decode.lean ====
section
/-! DEFINITION. The command word (30_encoding.md R80 to R87): the field split, the opcode map of R85 as a table of rows, the decoder (total on every 32-bit word, with the two kinds of illegal word named), the encoder, and the host's numbering of a word's bits. -/

namespace Sys2Proof

/-- Bits 31:24 of a command word, the opcode (R80). -/
def opField (w : Word32) : BitVec 8 := w.extractLsb' 24 8

/-- Bits 23:12 of a command word, the second operand `b` (R80). -/
def bField (w : Word32) : BitVec 12 := w.extractLsb' 12 12

/-- Bits 11:0 of a command word, the first operand `a` (R80). -/
def aField (w : Word32) : BitVec 12 := w.extractLsb' 0 12

/-- Why a command word is illegal (R86, R203). Both kinds end with the one command error `ERR_ILLEGAL`. -/
inductive DecodeError where
  /-- `op = 0x00` or `op >= 0x06`. -/
  | undefinedOpcode (op : BitVec 8)
  /-- A defined opcode with a nonzero bit in a field that must be zero. -/
  | nonzeroField (op : BitVec 8)
deriving DecidableEq, Repr

/-- What a command word stands for. -/
inductive Decoded where
  /-- One of the five commands. -/
  | command (i : Instr)
  /-- An illegal word (R86). -/
  | illegal (e : DecodeError)
deriving DecidableEq, Repr

/-- The decoder: a word selects the command of the row of R85 that it matches, and is illegal if it matches none (R86). -/
def decode (w : Word32) : Decoded :=
  let op := opField w
  let b := bField w
  let a := aField w
  if op = 0x01#8 then .command (.crc16 a.toNat b.toNat)
  else if op = 0x02#8 then .command (.parse a.toNat b.toNat)
  else if op = 0x03#8 then
    if b = 0#12 then .command (.serialize a.toNat) else .illegal (.nonzeroField op)
  else if op = 0x04#8 then
    if b = 0#12 ∧ a.extractLsb' 8 4 = 0#4 then .command (.setexc (a.extractLsb' 0 8))
    else .illegal (.nonzeroField op)
  else if op = 0x05#8 then .command (.check a.toNat b.toNat)
  else .illegal (.undefinedOpcode op)

/-- A command word put together from its three fields (R80). -/
def commandWord (op : BitVec 8) (b a : BitVec 12) : Word32 := op ++ b ++ a

/-- The encoder (R85, R90): the word of a well-formed command. -/
def encode : Instr → Word32
  | .crc16 off cnt => commandWord 0x01#8 (BitVec.ofNat 12 cnt) (BitVec.ofNat 12 off)
  | .parse off cnt => commandWord 0x02#8 (BitVec.ofNat 12 cnt) (BitVec.ofNat 12 off)
  | .serialize off => commandWord 0x03#8 0#12 (BitVec.ofNat 12 off)
  | .setexc code => commandWord 0x04#8 0#12 (code.setWidth 12)
  | .check off cnt => commandWord 0x05#8 (BitVec.ofNat 12 cnt) (BitVec.ofNat 12 off)

/-- One row of the opcode map (R85): a word `w` selects the row when `(w AND mask) = value`. -/
structure OpcodeRow where
  /-- The row's mnemonic. -/
  mnemonic : String
  /-- The row's `match` column. -/
  value : Word32
  /-- The row's `mask` column, which includes the fields that must be zero. -/
  mask : Word32
deriving DecidableEq, Repr

/-- The opcode map as R85 prints it. The decoder does not read it: that the two agree is a claim about the model. -/
def opcodeRows : List OpcodeRow :=
  [⟨"CRC16", 0x01000000#32, 0xFF000000#32⟩,
   ⟨"PARSE", 0x02000000#32, 0xFF000000#32⟩,
   ⟨"SERIALIZE", 0x03000000#32, 0xFFFFF000#32⟩,
   ⟨"SETEXC", 0x04000000#32, 0xFFFFFF00#32⟩,
   ⟨"CHECK", 0x05000000#32, 0xFF000000#32⟩]

/-- The word selects the row (R85). -/
def rowMatches (r : OpcodeRow) (w : Word32) : Bool := (w &&& r.mask) == r.value

/-- The mnemonic of a command, as the opcode map spells it (R85). -/
def mnemonicOf : Instr → String
  | .crc16 _ _ => "CRC16"
  | .parse _ _ => "PARSE"
  | .serialize _ => "SERIALIZE"
  | .setexc _ => "SETEXC"
  | .check _ _ => "CHECK"

/-- The command word whose low `nbits` bits are those of `w` and whose other bits are 0, with bit 0 the least significant (R7). A command word is one 32-bit word and stands in no memory (R31, R64), so no byte order enters. -/
def tableWord (nbits w : Nat) : Word32 := BitVec.ofNat 32 (w % 2 ^ nbits)

/-- The host's view of the decoder: the command that the word numbered `w` stands for, and `none` where it is illegal. -/
def decodeTableWord (nbits w : Nat) : Option Instr :=
  match decode (tableWord nbits w) with
  | .command i => some i
  | .illegal _ => none

end Sys2Proof
end

