-- ==== Sys2Proof/Machine/State.lean ====
section
/-! DEFINITION. The state of the block as plain data (10_state.md), the reasons a step can stop, and the state after reset (10_state.md R38). The host is the environment (20_memory.md R62): the accesses it has still to make and the values its reads have returned stand in the state as two lists of the model's own. -/

namespace Sys2Proof.Machine

/-- A byte memory, WIRE or PAYLOAD: the list of the bytes written since reset, each an index and a byte, in ONE canonical form: indices strictly rising (`Memory.wf` in Machine/Ops.lean). An index that is not listed has not been written since reset and holds the free value of Config.lean (R38, R232). -/
abbrev Memory := List Host.Cell

/-- What a host access does (R58): a read, or a write of a 32-bit word. -/
inductive HostOp where
  /-- A read. -/
  | read
  /-- A write of `wdata`. -/
  | write (wdata : Word32)
deriving DecidableEq, Repr

/-- One access of the host to the block's port (R56, R57), at transaction level (D1). -/
structure HostAccess where
  /-- Read or write. -/
  op : HostOp
  /-- The width of the access in bits (R56, R57 (a)). -/
  width : Nat
  /-- The byte offset from the block's base address (R58). -/
  offset : Nat
deriving DecidableEq, Repr

/-- What the outside can do to the block: make a host access (R11 (1)), or apply the reset input (R230). -/
inductive HostEvent where
  /-- One host access. -/
  | access (a : HostAccess)
  /-- The external reset, applied and released, between two accesses (R230; notes/assumptions/6.md). -/
  | reset
deriving DecidableEq, Repr

/-- Which case of R57 refuses a host access. The spec has one outcome, `HostFault`; the case is kept so that a claim can name it. DESIGN CHOICE: where several apply, the first in the order of R57 is named (notes/assumptions/7.md). -/
inductive HostFaultCause where
  /-- R57 (a): the access is not 32 bits wide. -/
  | width
  /-- R57 (b): the byte offset is not a multiple of 4. -/
  | alignment
  /-- R57 (c): the offset is not in the map of R58. -/
  | unmapped
  /-- R57 (d): a write to `CRCOUT`, `LEN` or `CAP`. -/
  | readOnly
deriving DecidableEq, Repr

/-- The faults of a step. -/
inductive Fault where
  /-- `HostFault` (R9, R57): raised by the host port (Machine/HostPort.lean) on an access the block does not admit. SAFE: the spec asks for it, the block's state does not change, and a model gives the access no successor. -/
  | hostFault (cause : HostFaultCause)
deriving DecidableEq, Repr

/-- The refusals of a step. -/
inductive Refusal where
  /-- An arm of exec that has no meaning yet. No arm raises it: all five commands are modelled. SAFE: a refusal proves nothing. -/
  | notModelled (mnemonic : String)
deriving DecidableEq, Repr

/-- Everything the spec gives the block (10_state.md R20 to R38), and four fields of the model's own, which come last but for `cfg`. -/
structure State where
  /-- MODEL'S OWN: the instance's parameters (00_scope.md R6), carried by the state because they are an argument of the model; no step changes them. `CAP` reads them (R32). DESIGN CHOICE, notes/assumptions/2.md. -/
  cfg : Config
  /-- `STATION`, 8 bits (R21). -/
  station : Byte
  /-- `FUNC`, 7 bits (R22). -/
  func : BitVec 7
  /-- `EXC`, 1 bit (R23). -/
  exc : BitVec 1
  /-- `PAYLEN`, 12 bits (R24). -/
  paylen : BitVec 12
  /-- `FCRC`, 16 bits (R25). -/
  fcrc : Word16
  /-- PAYLOAD, `PAY_SIZE` bytes (R26). -/
  payload : Memory
  /-- `CRCOUT`, 16 bits (R28). -/
  crcout : Word16
  /-- `LEN`, 12 bits (R29). -/
  len : BitVec 12
  /-- `STATUS.ERR`, bits 3:0 (R30). -/
  err : BitVec 4
  /-- `STATUS.MATCH`, bit 4 (R30). -/
  matched : Bool
  /-- `STATUS.ERRSTK`, bit 5 (R30). -/
  errstk : Bool
  /-- WIRE, `BUF_SIZE` bytes (R35). -/
  wire : Memory
  /-- MODEL'S OWN: how many resets there have been, the argument of the free values of Config.lean (R232). DESIGN CHOICE, notes/assumptions/1.md. -/
  epoch : Nat
  /-- MODEL'S OWN: what the host will do from here on, next first: its list of accesses (R33, R237). DESIGN CHOICE, notes/assumptions/4.md. -/
  events : List HostEvent
  /-- MODEL'S OWN: the values returned to the host by its reads so far, oldest first (R59). DESIGN CHOICE, notes/assumptions/5.md. -/
  replies : List Word32
deriving DecidableEq, Repr

/-- The state of an instance when its reset ends: the table of R38. Both memories list nothing: every byte holds its free value. -/
def State.resetOf (cfg : Config) : State where
  cfg := cfg
  station := 0x00#8
  func := 0x00#7
  exc := 0#1
  paylen := 0#12
  fcrc := 0x0000#16
  payload := []
  crcout := 0xFFFF#16
  len := 0#12
  err := 0#4
  matched := false
  errstk := false
  wire := []
  epoch := 0
  events := []
  replies := []

/-- The default instance (BUF_SIZE = 512, R6) right after reset, with no host access made or promised yet. -/
def State.reset : State := State.resetOf Config.default

end Sys2Proof.Machine
end

