-- ==== Sys2Proof/Machine/Ops.lean ====
section
/-! DEFINITION. The named operations over the memories and the registers: reading and writing a memory, one update per field of State, the end of a command (success, and the ONE entry of a command error, 60_exceptions.md R204), and the external reset (70_reset_and_hazards.md R230). There is no return from an error to model: 60_exceptions.md R206. -/

namespace Sys2Proof.Machine

/-- The canonical form of a memory: indices strictly rising, so that each index is listed at most once and equal sets of written bytes are equal lists. An unlisted index reads as a free value, which no listed byte can be compared with: a written byte is always listed. -/
abbrev Memory.wf (m : Memory) : Prop := m.Pairwise fun x y => x.1 < y.1

/-- Every listed index is one of the `n` the memory has (R26, R35). -/
abbrev Memory.below (n : Nat) (m : Memory) : Prop := ∀ c ∈ m, c.1 < n

/-- The byte written last at index `a`, and `none` where nothing has written it since reset. -/
def memGet : Memory → Nat → Option Byte
  | [], _ => none
  | (b, v) :: m, a => if a = b then some v else memGet m a

/-- `M[a] <- v` (00_scope.md R8). -/
def memSet : Memory → Nat → Byte → Memory
  | [], a, v => [(a, v)]
  | (b, w) :: m, a, v =>
    if a < b then (a, v) :: (b, w) :: m
    else if a = b then (a, v) :: m
    else (b, w) :: memSet m a v

/-- `M[a .. a+n) <- bs` for the `n` bytes `bs`, the first at the lowest index. -/
def memSetBytes (m : Memory) (a : Nat) : List Byte → Memory
  | [] => m
  | v :: bs => memSetBytes (memSet m a v) (a + 1) bs

/-! One update per field (R8 `REG <- v`). -/

/-- `STATION <- v`. -/
def setStation (v : Byte) (s : State) : State := { s with station := v }

/-- `FUNC <- v`. -/
def setFunc (v : BitVec 7) (s : State) : State := { s with func := v }

/-- `EXC <- v`. -/
def setExc (v : BitVec 1) (s : State) : State := { s with exc := v }

/-- `PAYLEN <- v`. -/
def setPaylen (v : BitVec 12) (s : State) : State := { s with paylen := v }

/-- `FCRC <- v`. -/
def setFcrc (v : Word16) (s : State) : State := { s with fcrc := v }

/-- `PAYLOAD[a .. ) <- bs`. -/
def writePayload (a : Nat) (bs : List Byte) (s : State) : State :=
  { s with payload := memSetBytes s.payload a bs }

/-- `WIRE[a .. ) <- bs`. -/
def writeWire (a : Nat) (bs : List Byte) (s : State) : State :=
  { s with wire := memSetBytes s.wire a bs }

/-- `CRCOUT <- v`. -/
def setCrcout (v : Word16) (s : State) : State := { s with crcout := v }

/-- `LEN <- v`. -/
def setLen (v : BitVec 12) (s : State) : State := { s with len := v }

/-- `STATUS.MATCH <- v`. -/
def setMatched (v : Bool) (s : State) : State := { s with matched := v }

/-- `STATUS.ERRSTK <- 0`, the effect of the host's write of 1 to bit 5 of `STATUS` (R30). -/
def clearSticky (s : State) : State := { s with errstk := false }

/-- The host's list of what it will do, replaced. -/
def setEvents (es : List HostEvent) (s : State) : State := { s with events := es }

/-- The port hands the value `v` of a read to the host (R59). -/
def reply (v : Word32) (s : State) : State := { s with replies := s.replies ++ [v] }

/-! How a command ends. -/

/-- The command errors (60_exceptions.md R200). -/
inductive CmdError where
  /-- `ERR_SHORT`: `cnt < 4`, the range is too short to be a frame (R201). -/
  | short
  /-- `ERR_RANGE`: the byte range does not lie inside WIRE (R202). -/
  | range
  /-- `ERR_ILLEGAL`: the word matches no row of the opcode map (R203). -/
  | illegal
deriving DecidableEq, Repr

/-- The code of a command error in `STATUS.ERR` (R200). -/
def errorCode : CmdError → BitVec 4
  | .short => 1#4
  | .range => 2#4
  | .illegal => 3#4

/-- `STATUS.ERR <- 0`: the command was carried out (R200 `OK`). -/
def succeed (s : State) : State := { s with err := 0#4 }

/-- `raise e` (R8, R204): the entry of a command error, the one shared by every command. `STATUS.ERR` takes the code and `STATUS.ERRSTK` is set; nothing is saved and control goes nowhere, because the block has no pc, mode, stack or vector. That a failing `CHECK` also clears `STATUS.MATCH` is said in its meaning, as R145 says it. -/
def raiseError (e : CmdError) (s : State) : State :=
  { s with err := errorCode e, errstk := true }

/-- The external reset, applied and released (R230, R231): every register takes its value of R38, and both memories become unspecified again (R232). The instance, what the host has still to do and what it has read stay. -/
def applyReset (s : State) : State :=
  { State.resetOf s.cfg with epoch := s.epoch + 1, events := s.events, replies := s.replies }

end Sys2Proof.Machine
end

