-- ==== Sys2Proof/Machine/Operands.lean ====
section
/-! DEFINITION. The operand forms: the byte range WIRE[off .. off+cnt) (20_memory.md R51), the payload PAYLOAD[0 .. n) (R52), and the bytes of a frame: the function byte (30_encoding.md R71), the two CRC bytes (R72), and the body a CRC is computed over (R70). -/

namespace Sys2Proof.Machine

/-! Bytes and ranges of the two memories. -/

/-- `WIRE[a]`: the byte written last, or the free value where nothing has written it since reset (R38, R240). -/
def wireByte (s : State) (a : Nat) : Byte := (memGet s.wire a).getD (Config.initWire s.epoch a)

/-- `PAYLOAD[a]`, likewise. -/
def payloadByte (s : State) (a : Nat) : Byte :=
  (memGet s.payload a).getD (Config.initPayload s.epoch a)

/-- `WIRE[off .. off+cnt)`: the i-th byte is at index `off + i`, without wrap-around (R51). -/
def wireBytes (s : State) (off cnt : Nat) : List Byte :=
  (List.range cnt).map fun k => wireByte s (off + k)

/-- `PAYLOAD[0 .. n)`: commands address PAYLOAD from index 0 only (R52). -/
def payloadBytes (s : State) (n : Nat) : List Byte := (List.range n).map (payloadByte s)

/-- The range of `cnt` bytes at `off` is admitted: `off + cnt <= BUF_SIZE` (R51, R202). An empty range is admitted at every offset up to `BUF_SIZE`. -/
def rangeFits (s : State) (off cnt : Nat) : Bool := decide (off + cnt ≤ s.cfg.bufSize)

/-- `NO_DATA_LENGTH = 4`, the bytes of a frame that are not payload (00_scope.md R6). -/
def noDataLength : Nat := 4

/-- The range is too short to be a frame: `cnt < 4` (R201). -/
def tooShort (cnt : Nat) : Bool := decide (cnt < noDataLength)

/-! The function byte (R71). -/

/-- `fb = (EXC << 7) OR FUNC`. -/
def functionByte (e : BitVec 1) (f : BitVec 7) : Byte := (e.setWidth 8 <<< 7) ||| f.setWidth 8

/-- The function code, `fb[6:0]`. -/
def functionCode (fb : Byte) : BitVec 7 := fb.extractLsb' 0 7

/-- The exception flag, `fb[7]`. -/
def exceptionFlag (fb : Byte) : BitVec 1 := fb.extractLsb' 7 1

/-! The CRC bytes: low byte first on the wire (R53, R72). -/

/-- `crcLow = crc[7:0]`. -/
def crcLow (c : Word16) : Byte := c.extractLsb' 0 8

/-- `crcHigh = crc[15:8]`. -/
def crcHigh (c : Word16) : Byte := c.extractLsb' 8 8

/-- `crc = zext_16(crcLow) OR (zext_16(crcHigh) << 8)`. -/
def joinCrc (lo hi : Byte) : Word16 := lo.setWidth 16 ||| (hi.setWidth 16 <<< 8)

/-- The two CRC bytes in wire order. -/
def crcBytes (c : Word16) : List Byte := [crcLow c, crcHigh c]

/-- The CRC carried by the frame in WIRE[off .. off+cnt): its last two bytes (R70, R120, R145). -/
def receivedCrc (s : State) (off cnt : Nat) : Word16 :=
  joinCrc (wireByte s (off + cnt - 2)) (wireByte s (off + cnt - 1))

/-! The frame held in the frame registers. -/

/-- Station, function byte and payload: what the CRC of the frame held is computed over (R70, R130). -/
def frameBody (s : State) : List Byte :=
  s.station :: functionByte s.exc s.func :: payloadBytes s s.paylen.toNat

end Sys2Proof.Machine
end

