-- ==== Sys2Proof/Machine/Flags.lean ====
section
/-! DEFINITION. The flag computations: the `STATUS` word and its host write (10_state.md R30), and the comparison that `STATUS.MATCH` reports (43_check.md R145). `STATUS.ERR` and `STATUS.ERRSTK` are written by `succeed` and `raiseError` of Machine/Ops.lean. None of the flags is a condition code (R34). -/

namespace Sys2Proof.Machine

/-- The `STATUS` word (R30): `ERR` in bits 3:0, `MATCH` in bit 4, `ERRSTK` in bit 5, and bits 31:6 reading 0. -/
def statusWord (s : State) : Word32 :=
  0#26 ++ BitVec.ofBool s.errstk ++ BitVec.ofBool s.matched ++ s.err

/-- A host write of `wdata` to `STATUS` (R30): its one effect is that a 1 in bit 5 clears `ERRSTK`. -/
def writeStatus (wdata : Word32) (s : State) : State :=
  if wdata.getLsbD 5 then clearSticky s else s

/-- `STATUS.MATCH <- 1 if c = r, else 0` (R145). -/
def compareCrc (c r : Word16) (s : State) : State := setMatched (c == r) s

end Sys2Proof.Machine
end

