-- ==== Sys2Proof/Machine/Codec.lean ====
section
/-! DEFINITION. The commands of the frame codec: `PARSE` (41_parse.md R120), `SERIALIZE` (42_serialize.md R130) and `SETEXC` (42_serialize.md R133). -/

namespace Sys2Proof.Machine

/-- The frame in WIRE[off .. off+cnt) loaded into the frame registers (R120). All reads are of the state before. -/
def loadFrame (off cnt : Nat) (s : State) : State :=
  let n := cnt - 4
  let fb := wireByte s (off + 1)
  setFcrc (receivedCrc s off cnt)
    (setPaylen (BitVec.ofNat 12 n)
      (writePayload 0 (wireBytes s (off + 2) n)
        (setExc (exceptionFlag fb)
          (setFunc (functionCode fb)
            (setStation (wireByte s off) s)))))

/-- `PARSE off, cnt` (R120). The CRC is not validated (R121). -/
def execParse (off cnt : Nat) (s : State) : Host.Outcome State Fault Refusal :=
  if tooShort cnt then .next (raiseError .short s)
  else if rangeFits s off cnt then .next (succeed (loadFrame off cnt s))
  else .next (raiseError .range s)

/-- The frame held written to WIRE from `off`, its fresh CRC behind it, low byte first (R130). `FCRC` is not read (R131). -/
def storeFrame (off : Nat) (s : State) : State :=
  let body := frameBody s
  let c := crc16 body
  setLen (BitVec.ofNat 12 (s.paylen.toNat + 4))
    (setCrcout c (writeWire off (body ++ crcBytes c) s))

/-- `SERIALIZE off` (R130). -/
def execSerialize (off : Nat) (s : State) : Host.Outcome State Fault Refusal :=
  if rangeFits s off (s.paylen.toNat + 4) then .next (succeed (storeFrame off s))
  else .next (raiseError .range s)

/-- `SETEXC code` (R133): `EXC <- 1`, `PAYLOAD[0] <- code`, `PAYLEN <- 1`. It cannot fail. -/
def execSetexc (code : Byte) (s : State) : Host.Outcome State Fault Refusal :=
  .next (succeed (setPaylen 1#12 (writePayload 0 [code] (setExc 1#1 s))))

end Sys2Proof.Machine
end

