-- ==== Sys2Proof/Machine/CrcCommand.lean ====
section
/-! DEFINITION. The commands of the CRC unit: `CRC16` (40_crc16.md R110) and `CHECK` (43_check.md R145). -/

namespace Sys2Proof.Machine

/-- `CRC16 off, cnt` (R110): the CRC of the range goes to `CRCOUT`. -/
def execCrc16 (off cnt : Nat) (s : State) : Host.Outcome State Fault Refusal :=
  if rangeFits s off cnt then
    .next (succeed (setCrcout (crc16 (wireBytes s off cnt)) s))
  else .next (raiseError .range s)

/-- A failing `CHECK` (R145, R204): `STATUS.MATCH <- 0`, then the error. -/
def failCheck (e : CmdError) (s : State) : State := raiseError e (setMatched false s)

/-- `CHECK off, cnt` (R145): recompute over the first `cnt - 2` bytes, compare with the last two. A mismatch is no error. -/
def execCheck (off cnt : Nat) (s : State) : Host.Outcome State Fault Refusal :=
  if tooShort cnt then .next (failCheck .short s)
  else if rangeFits s off cnt then
    let c := crc16 (wireBytes s off (cnt - 2))
    let r := receivedCrc s off cnt
    .next (succeed (compareCrc c r (setCrcout c s)))
  else .next (failCheck .range s)

end Sys2Proof.Machine
end

