-- ==== Sys2Proof/Machine/Dispatch.lean ====
section
/-! DEFINITION. What a command does: one arm per constructor of Instr, each a direct call of its meaning. -/

namespace Sys2Proof.Machine

def exec (i : Instr) (s : State) : Host.Outcome State Fault Refusal :=
  match i with
  | .crc16 off cnt => Sys2Proof.Machine.execCrc16 off cnt s
  | .parse off cnt => Sys2Proof.Machine.execParse off cnt s
  | .serialize off => Sys2Proof.Machine.execSerialize off s
  | .setexc code => Sys2Proof.Machine.execSetexc code s
  | .check off cnt => Sys2Proof.Machine.execCheck off cnt s

end Sys2Proof.Machine
end

