-- ==== Sys2Proof/Machine/HostPort.lean ====
section
/-! DEFINITION. The host port (20_memory.md R55 to R61): the register map of R58, host reads and writes, the refusal of an access the map does not admit (R57), and the command that a `CMD` write executes (10_state.md R31). -/

namespace Sys2Proof.Machine

/-- A word of the register map (R58). -/
inductive Target where
  | cmd
  | status
  | crcout
  | len
  | station
  | func
  | exc
  | paylen
  | fcrc
  | cap
  /-- WIRE[i]. -/
  | wire (i : Nat)
  /-- PAYLOAD[i]. -/
  | payload (i : Nat)
deriving DecidableEq, Repr

/-- The named registers of the map, each with its byte offset (R58). -/
def registerMap : List (Nat × Target) :=
  [(0x0000, .cmd), (0x0004, .status), (0x0008, .crcout), (0x000C, .len), (0x0010, .station),
   (0x0014, .func), (0x0018, .exc), (0x001C, .paylen), (0x0020, .fcrc), (0x0024, .cap)]

/-- The byte offset of a word of the map (R58). -/
def targetOffset : Target → Nat
  | .cmd => 0x0000
  | .status => 0x0004
  | .crcout => 0x0008
  | .len => 0x000C
  | .station => 0x0010
  | .func => 0x0014
  | .exc => 0x0018
  | .paylen => 0x001C
  | .fcrc => 0x0020
  | .cap => 0x0024
  | .wire i => 0x4000 + 4 * i
  | .payload i => 0x8000 + 4 * i

/-- The word of the map at an aligned byte offset, and `none` where the map has none, an index beyond the instance's memory included (R57 (c), R58). An offset of 0xC000 and above is no word of the map either (DEDUCED from R57 (c), notes/assumptions/7.md). -/
def mapTarget (cfg : Config) (offset : Nat) : Option Target :=
  if offset < 0x4000 then registerMap.lookup offset
  else if offset < 0x8000 then
    if (offset - 0x4000) / 4 < cfg.bufSize then some (.wire ((offset - 0x4000) / 4)) else none
  else if offset < 0xC000 then
    if (offset - 0x8000) / 4 < cfg.paySize then some (.payload ((offset - 0x8000) / 4)) else none
  else none

/-- The value a host read returns, zero-extended to 32 bits (R59). `CMD` reads 0 (R31). -/
def readTarget (s : State) : Target → Word32
  | .cmd => 0#32
  | .status => statusWord s
  | .crcout => s.crcout.setWidth 32
  | .len => s.len.setWidth 32
  | .station => s.station.setWidth 32
  | .func => s.func.setWidth 32
  | .exc => s.exc.setWidth 32
  | .paylen => s.paylen.setWidth 32
  | .fcrc => s.fcrc.setWidth 32
  | .cap => BitVec.ofNat 32 s.cfg.bufSize
  | .wire i => (wireByte s i).setWidth 32
  | .payload i => (payloadByte s i).setWidth 32

/-- The command word `w` executes, completely (R31, R61). An illegal word ends with `ERR_ILLEGAL` and changes nothing else (R86, R203). -/
def runCommand (w : Word32) (s : State) : Host.Outcome State Fault Refusal :=
  match decode w with
  | .command i => exec i s
  | .illegal _ => .next (raiseError .illegal s)

/-- A host write of a word of the map: the low bits are stored, as many as the register has (R60). `CMD` executes the word and `STATUS` may clear `ERRSTK` (R30); `CRCOUT`, `LEN` and `CAP` are read-only (R57 (d)). -/
def writeTarget (wdata : Word32) (s : State) : Target → Host.Outcome State Fault Refusal
  | .cmd => runCommand wdata s
  | .status => .next (writeStatus wdata s)
  | .crcout => .fault (.hostFault .readOnly)
  | .len => .fault (.hostFault .readOnly)
  | .station => .next (setStation (wdata.extractLsb' 0 8) s)
  | .func => .next (setFunc (wdata.extractLsb' 0 7) s)
  | .exc => .next (setExc (wdata.extractLsb' 0 1) s)
  | .paylen => .next (setPaylen (wdata.extractLsb' 0 12) s)
  | .fcrc => .next (setFcrc (wdata.extractLsb' 0 16) s)
  | .cap => .fault (.hostFault .readOnly)
  | .wire i => .next (writeWire i [wdata.extractLsb' 0 8] s)
  | .payload i => .next (writePayload i [wdata.extractLsb' 0 8] s)

/-- One host access (R56 to R61). A refused access changes nothing and executes no command (R57, R208). -/
def hostAccess (a : HostAccess) (s : State) : Host.Outcome State Fault Refusal :=
  if a.width ≠ 32 then .fault (.hostFault .width)
  else if a.offset % 4 ≠ 0 then .fault (.hostFault .alignment)
  else
    match mapTarget s.cfg a.offset with
    | none => .fault (.hostFault .unmapped)
    | some t =>
      match a.op with
      | .read => .next (reply (readTarget s t) s)
      | .write wdata => writeTarget wdata s t

/-- What the outside does, taken by the block: a host access or the reset (R62, R230). -/
def takeEvent (e : HostEvent) (s : State) : Host.Outcome State Fault Refusal :=
  match e with
  | .access a => hostAccess a s
  | .reset => .next (applyReset s)

/-! The accesses of the assembler syntax (30_encoding.md R90). -/

/-- `wr NAME, v`: a host write of a word of the map. -/
def wr (t : Target) (v : Word32) : HostEvent := .access ⟨.write v, 32, targetOffset t⟩

/-- `rd NAME`: a host read of a word of the map. -/
def rd (t : Target) : HostEvent := .access ⟨.read, 32, targetOffset t⟩

/-- A command's line: `wr CMD` with its word. -/
def issue (i : Instr) : HostEvent := wr .cmd (encode i)

end Sys2Proof.Machine
end

