-- ==== Sys2Proof/Machine/Step.lean ====
section
/-! DEFINITION. One step of the block: it takes the next thing the host does, whole (20_memory.md R61, R62). With nothing to take it waits, as it is never asleep and never halts (60_exceptions.md R219, 70_reset_and_hazards.md R233, R237); that waiting is a step to the same state is a DESIGN CHOICE (notes/assumptions/3.md). -/

namespace Sys2Proof.Machine

def step (s : State) : Host.Outcome State Fault Refusal :=
  match s.events with
  | [] => .next s
  | e :: rest => takeEvent e (setEvents rest s)

/-- The state in which the host's next access writes the command word `w` to `CMD`: the block fetches nothing (R33, R64), so this is where its next command comes from. -/
def State.withFetchWord (s : State) (nbits w : Nat) : State :=
  setEvents (wr .cmd (tableWord nbits w) :: s.events) s

end Sys2Proof.Machine
end

