-- ==== Sys2Proof/Machine/Frame.lean ====
section
/-! DEFINITION. The abstract frame that the block holds (10_state.md R27), the two predicates on it (R40, R41), and the two enumerations of the wire format (30_encoding.md R74, R76). The block itself reads none of these: it carries every code unpoliced (R75, R82). -/

namespace Sys2Proof.Machine

/-- The document's `Frame` without its `crc`, `frame4()` of R27. -/
structure Frame4 where
  station : Byte
  function : BitVec 7
  isException : Bool
  payload : List Byte
deriving DecidableEq, Repr

/-- The document's `Frame` (R27). -/
structure Frame extends Frame4 where
  crc : Word16
deriving DecidableEq, Repr

/-- `frame()`: the frame held, defined when `PAYLEN <= PAY_SIZE` (R27). -/
def heldFrame (s : State) : Option Frame :=
  if s.paylen.toNat ≤ s.cfg.paySize then
    some { station := s.station, function := s.func, isException := s.exc == 1#1,
           payload := payloadBytes s s.paylen.toNat, crc := s.fcrc }
  else none

/-- `frame4()` (R27). -/
def heldFrame4 (s : State) : Option Frame4 := (heldFrame s).map Frame.toFrame4

/-- The frame held is consistent: its `FCRC` is the CRC of its body (R40). The block does not enforce it, and no step reads it. DESIGN CHOICE: with `PAYLEN > PAY_SIZE` the frame held is undefined (R27) and R40 names bytes that PAYLOAD does not have; the predicate still answers there, with the free value of each such index (notes/assumptions/13.md). No statement rests on that answer. -/
def frameConsistent (s : State) : Bool := s.fcrc == crc16 (frameBody s)

/-- The frame held is a well-formed exception frame (R41). `PARSE` does not check it. -/
def isExceptionFrame (s : State) : Bool := s.exc == 1#1 && s.paylen == 1#12

/-- The function codes the document enumerates (R74). -/
inductive FunctionCode where
  | readCoils
  | readInputs
  | readHoldingRegisters
  | readInputRegisters
  | writeSingleCoil
  | writeSingleRegister
  | diagnostics
  | writeMultipleCoils
  | writeMultipleRegisters
  | reportIdentity
deriving DecidableEq, Repr

/-- The value of a function code in the `function` field (R74). -/
def functionValue : FunctionCode → BitVec 7
  | .readCoils => 1#7
  | .readInputs => 2#7
  | .readHoldingRegisters => 3#7
  | .readInputRegisters => 4#7
  | .writeSingleCoil => 5#7
  | .writeSingleRegister => 6#7
  | .diagnostics => 8#7
  | .writeMultipleCoils => 15#7
  | .writeMultipleRegisters => 16#7
  | .reportIdentity => 17#7

/-- The `ErrorCode` values an exception frame carries (R76). The host chooses one and passes it to `SETEXC`; the block never makes one of its own accord. -/
inductive ErrorCode where
  | functionCode
  | address
  | value
  | count
  | processError
  | messageLength
  | crcError
deriving DecidableEq, Repr

/-- The byte of an `ErrorCode` (R76). -/
def errorByte : ErrorCode → Byte
  | .functionCode => 1#8
  | .address => 2#8
  | .value => 3#8
  | .count => 4#8
  | .processError => 5#8
  | .messageLength => 6#8
  | .crcError => 7#8

end Sys2Proof.Machine
end

