-- ==== Sys2Proof/Safety.lean ====
section
/-! DEFINITION. What counts as a safe run (70_reset_and_hazards.md R237), which accesses the block admits (20_memory.md R57), and the invariant of the block's state. -/

namespace Sys2Proof.Machine

/-- The host may not write this word of the map (R57 (d), R58). -/
def readOnly : Target → Bool
  | .crcout => true
  | .len => true
  | .cap => true
  | _ => false

/-- The access is none of the four cases of R57, on an instance of the given size. The state of the block plays no part. -/
def admits (cfg : Config) (a : HostAccess) : Bool :=
  a.width == 32 && a.offset % 4 == 0 &&
    match mapTarget cfg a.offset with
    | none => false
    | some t =>
      match a.op with
      | .read => true
      | .write _ => !readOnly t

/-- The same of anything the outside does: the reset input is always taken (R230). -/
def admitsEvent (cfg : Config) : HostEvent → Bool
  | .access a => admits cfg a
  | .reset => true

/-- The run of the host's whole list of accesses, one step each, ends in `t` (R237). -/
def RunEnds (s t : State) : Prop :=
  Host.Core.run Sys2Proof.core s.events.length s = .next t

/-- The run is a good one: no access of the list is a `HostFault` (R237). A command error is no fault. -/
def GoodRun (s : State) : Prop := ∃ t, RunEnds s t

/-- No command has failed since the sticky bit was last cleared (R207). -/
def noErrorRecorded (s : State) : Bool := !s.errstk

/-- What is true of the block's state after every step. -/
structure Inv (s : State) : Prop where
  /-- WIRE is in canonical form. -/
  wire_wf : Memory.wf s.wire
  /-- WIRE has `BUF_SIZE` bytes (R35). -/
  wire_below : Memory.below s.cfg.bufSize s.wire
  /-- PAYLOAD is in canonical form. -/
  payload_wf : Memory.wf s.payload
  /-- PAYLOAD has `PAY_SIZE` bytes (R26, R52). -/
  payload_below : Memory.below s.cfg.paySize s.payload
  /-- The values 4 to 15 of `STATUS.ERR` never occur (R30). -/
  err_legal : s.err.toNat ≤ 3
  /-- `LEN` is 0 or the length of a frame that fits in WIRE (R29). -/
  len_legal : s.len = 0#12 ∨ (4 ≤ s.len.toNat ∧ s.len.toNat ≤ s.cfg.bufSize)
  /-- `CRCOUT` is at all times the CRC of some byte sequence (R28). -/
  crcout_is_crc : ∃ bs, s.crcout = crc16 bs

end Sys2Proof.Machine
end

