-- ==== Sys2Proof/Certificates/Slice0/Obligations.lean ====
section
/-! DEFINITION. The statements for the provers, from the spec's numbered rules. Each says in its docstring which rule it formalises. `.access ⟨.write w, 32, 0x0000⟩` is the host's write of the word `w` to `CMD`. -/

open Sys2Proof Sys2Proof.Machine

/-! ## The command word -/

/-- Words written out from R80, R85 and R90 and from the vectors V70 to V77 decode to the commands they stand for, or are illegal. -/
def Obligations.DocumentedWordsDecode : Prop :=
  decode 0x01009000#32 = .command (.crc16 0 9) ∧
  decode 0x010031FE#32 = .command (.crc16 510 3) ∧
  decode 0x01FFFFFF#32 = .command (.crc16 4095 4095) ∧
  decode 0x02008003#32 = .command (.parse 3 8) ∧
  decode 0x02003FFF#32 = .command (.parse 4095 3) ∧
  decode 0x03000FFF#32 = .command (.serialize 4095) ∧
  decode 0x040000FF#32 = .command (.setexc 0xFF#8) ∧
  decode 0x05008003#32 = .command (.check 3 8) ∧
  decode 0x06000000#32 = .illegal (.undefinedOpcode 0x06#8) ∧
  decode 0x03001000#32 = .illegal (.nonzeroField 0x03#8) ∧
  decode 0x04000100#32 = .illegal (.nonzeroField 0x04#8) ∧
  decode 0x04001000#32 = .illegal (.nonzeroField 0x04#8)

/-- R85: a word that matches a row of the opcode map is the command of that row, with `a` (bits 11:0) and `b` (bits 23:12) as its operands, and no word matches two rows. -/
def Obligations.WordSelectsItsOpcodeRow : Prop :=
  (∀ w : Word32,
    let a := (w &&& 0xFFF#32).toNat
    let b := ((w >>> 12) &&& 0xFFF#32).toNat
    (w &&& 0xFF000000#32 = 0x01000000#32 → decode w = .command (.crc16 a b)) ∧
    (w &&& 0xFF000000#32 = 0x02000000#32 → decode w = .command (.parse a b)) ∧
    (w &&& 0xFFFFF000#32 = 0x03000000#32 → decode w = .command (.serialize a)) ∧
    (w &&& 0xFFFFFF00#32 = 0x04000000#32 → decode w = .command (.setexc (w.setWidth 8))) ∧
    (w &&& 0xFF000000#32 = 0x05000000#32 → decode w = .command (.check a b))) ∧
  (∀ w : Word32, ∀ r₁ ∈ opcodeRows, ∀ r₂ ∈ opcodeRows,
    rowMatches r₁ w = true → rowMatches r₂ w = true → r₁ = r₂)

/-- R86: a word is illegal exactly when it matches no row, which is exactly when its opcode is 0 or 6 and above, or a field that must be zero is not; written to `CMD`, it raises `ERR_ILLEGAL` and changes nothing else. The all-zero and the all-ones word are illegal. -/
def Obligations.IllegalWordsRaiseErrIllegal : Prop :=
  (∀ w : Word32,
    let op := w.toNat / 2 ^ 24
    let b := w.toNat / 2 ^ 12 % 2 ^ 12
    let a := w.toNat % 2 ^ 12
    ((∃ e, decode w = .illegal e) ↔ ∀ r ∈ opcodeRows, rowMatches r w = false) ∧
    ((∃ e, decode w = .illegal e) ↔
      op = 0 ∨ 6 ≤ op ∨ (op = 3 ∧ b ≠ 0) ∨ (op = 4 ∧ (b ≠ 0 ∨ a / 2 ^ 8 ≠ 0)))) ∧
  (∀ (s : State) (w : Word32) (rest : List HostEvent),
    s.events = .access ⟨.write w, 32, 0x0000⟩ :: rest →
    (∀ r ∈ opcodeRows, rowMatches r w = false) →
    step s = .next { s with events := rest, err := 3#4, errstk := true }) ∧
  (∃ e, decode 0x00000000#32 = .illegal e) ∧ (∃ e, decode 0xFFFFFFFF#32 = .illegal e)

/-- Decoding the word of a well-formed command gives the command back, with every operand at every value its field admits (R80 to R82, R85). -/
def Obligations.DecodeInvertsEncode : Prop :=
  ∀ i : Instr, wellFormed i = true → decode (encode i) = .command i

/-- Each legal word has one meaning and each well-formed command one word: what a word decodes to is well-formed and encodes to that word (R80 to R82, R85). -/
def Obligations.EncodeInvertsDecode : Prop :=
  ∀ (w : Word32) (i : Instr), decode w = .command i → wellFormed i = true ∧ encode i = w

/-! ## One step -/

/-- A step whose next access writes a command word to `CMD` runs the command the word decodes to, on the state with that access taken; and the same of the access that `withFetchWord` puts in front (R31, R61). -/
def Obligations.StepRunsTheDecodedCommand : Prop :=
  (∀ (s : State) (w : Word32) (rest : List HostEvent) (i : Instr),
    s.events = .access ⟨.write w, 32, 0x0000⟩ :: rest → decode w = .command i →
    step s = exec i { s with events := rest }) ∧
  (∀ (s : State) (nbits w : Nat) (i : Instr),
    decodeTableWord nbits w = some i → step (s.withFetchWord nbits w) = exec i s)

/-- With no host access to take, the block waits (R219, R233, R237). That waiting is a step to the same state is the model's choice (notes/assumptions/3.md). -/
def Obligations.IdleStepWaits : Prop :=
  ∀ s : State, s.events = [] → step s = .next s

/-- Every command terminates, with operands and a state of any kind, and none is refused (R235, R243). -/
def Obligations.EveryCommandCompletes : Prop :=
  ∀ (i : Instr) (s : State), ∃ t, exec i s = .next t

/-! ## The five commands -/

/-- R110: `CRC16 off, cnt`, its word, its effect, its one error, its corner case `cnt = 0`, and its example. -/
def Obligations.Crc16ComputesTheRangeCrc : Prop :=
  (∀ off cnt : Nat, off < 4096 → cnt < 4096 →
    encode (.crc16 off cnt) = 0x01000000#32 ||| (BitVec.ofNat 32 cnt <<< 12) ||| BitVec.ofNat 32 off) ∧
  (∀ (off cnt : Nat) (s : State),
    (off + cnt ≤ s.cfg.bufSize → exec (.crc16 off cnt) s =
      .next { s with
        crcout := crc16 ((List.range cnt).map fun k => wireByte s (off + k)), err := 0#4 }) ∧
    (s.cfg.bufSize < off + cnt → exec (.crc16 off cnt) s =
      .next { s with err := 2#4, errstk := true })) ∧
  (∀ (off : Nat) (s : State), off ≤ s.cfg.bufSize →
    exec (.crc16 off 0) s = .next { s with crcout := 0xFFFF#16, err := 0#4 }) ∧
  (∀ s : State, 6 ≤ s.cfg.bufSize →
    (List.range 6).map (wireByte s) = [0x01#8, 0x03#8, 0x00#8, 0x00#8, 0x00#8, 0x01#8] →
    encode (.crc16 0 6) = 0x01006000#32 ∧
    exec (.crc16 0 6) s = .next { s with crcout := 0x0A84#16, err := 0#4 })

/-- R120: `PARSE off, cnt`, its word, its two errors in their order, its effect on every register and on every byte of PAYLOAD, and its example. -/
def Obligations.ParseLoadsTheFrame : Prop :=
  (∀ off cnt : Nat, off < 4096 → cnt < 4096 →
    encode (.parse off cnt) = 0x02000000#32 ||| (BitVec.ofNat 32 cnt <<< 12) ||| BitVec.ofNat 32 off) ∧
  (∀ (off cnt : Nat) (s : State),
    (cnt < 4 → exec (.parse off cnt) s = .next { s with err := 1#4, errstk := true }) ∧
    (4 ≤ cnt → s.cfg.bufSize < off + cnt →
      exec (.parse off cnt) s = .next { s with err := 2#4, errstk := true }) ∧
    (4 ≤ cnt → off + cnt ≤ s.cfg.bufSize → ∃ t, exec (.parse off cnt) s = .next t ∧
      t = { s with
        station := wireByte s off
        func := (wireByte s (off + 1)).extractLsb' 0 7
        exc := (wireByte s (off + 1)).extractLsb' 7 1
        paylen := BitVec.ofNat 12 (cnt - 4)
        payload := t.payload
        fcrc := (wireByte s (off + cnt - 2)).setWidth 16 |||
          ((wireByte s (off + cnt - 1)).setWidth 16 <<< 8)
        err := 0#4 } ∧
      (∀ k, k < cnt - 4 → payloadByte t k = wireByte s (off + 2 + k)) ∧
      (∀ k, cnt - 4 ≤ k → payloadByte t k = payloadByte s k))) ∧
  (∀ s : State, 8 ≤ s.cfg.bufSize → (List.range 8).map (wireByte s) =
      [0x01#8, 0x03#8, 0x00#8, 0x00#8, 0x00#8, 0x01#8, 0x84#8, 0x0A#8] →
    encode (.parse 0 8) = 0x02008000#32 ∧ ∃ t, exec (.parse 0 8) s = .next t ∧
      t.station = 0x01#8 ∧ t.func = 0x03#7 ∧ t.exc = 0#1 ∧ t.paylen = 4#12 ∧
      (List.range 4).map (payloadByte t) = [0x00#8, 0x00#8, 0x00#8, 0x01#8] ∧
      t.fcrc = 0x0A84#16 ∧ t.err = 0#4)

/-- R130: `SERIALIZE off`, its word, its illegal words, its error (which takes in every `PAYLEN` above `PAY_SIZE`), its effect on every register and on every byte of WIRE, and its example. -/
def Obligations.SerializeWritesTheFrame : Prop :=
  (∀ off : Nat, off < 4096 → encode (.serialize off) = 0x03000000#32 ||| BitVec.ofNat 32 off) ∧
  (∀ (w : Word32) (s : State), w.toNat / 2 ^ 24 = 3 → w.toNat / 2 ^ 12 % 2 ^ 12 ≠ 0 →
    runCommand w s = .next { s with err := 3#4, errstk := true }) ∧
  (∀ (off : Nat) (s : State),
    (s.cfg.bufSize < off + s.paylen.toNat + 4 →
      exec (.serialize off) s = .next { s with err := 2#4, errstk := true }) ∧
    (s.cfg.paySize < s.paylen.toNat →
      exec (.serialize off) s = .next { s with err := 2#4, errstk := true }) ∧
    (off + s.paylen.toNat + 4 ≤ s.cfg.bufSize →
      let n := s.paylen.toNat
      let body := [s.station, (s.exc.setWidth 8 <<< 7) ||| s.func.setWidth 8] ++
        (List.range n).map (payloadByte s)
      let c := crc16 body
      ∃ t, exec (.serialize off) s = .next t ∧
        t = { s with wire := t.wire, crcout := c, len := BitVec.ofNat 12 (n + 4), err := 0#4 } ∧
        (∀ k, k < n + 2 → body[k]? = some (wireByte t (off + k))) ∧
        wireByte t (off + n + 2) = c.extractLsb' 0 8 ∧
        wireByte t (off + n + 3) = c.extractLsb' 8 8 ∧
        (∀ a, a < off ∨ off + n + 4 ≤ a → wireByte t a = wireByte s a))) ∧
  (∀ s : State, 8 ≤ s.cfg.bufSize → s.station = 0x01#8 → s.func = 0x03#7 → s.exc = 0#1 →
    s.paylen = 4#12 →
    (List.range 4).map (payloadByte s) = [0x00#8, 0x00#8, 0x00#8, 0x01#8] →
    encode (.serialize 0) = 0x03000000#32 ∧ ∃ t, exec (.serialize 0) s = .next t ∧
      (List.range 8).map (wireByte t) =
        [0x01#8, 0x03#8, 0x00#8, 0x00#8, 0x00#8, 0x01#8, 0x84#8, 0x0A#8] ∧
      t.crcout = 0x0A84#16 ∧ t.len = 8#12 ∧ t.err = 0#4)

/-- R133: `SETEXC code`, its word, its illegal words, its effect on every register and on every byte of PAYLOAD, the function byte of the `SERIALIZE` that follows, and its example. -/
def Obligations.SetexcMakesAnExceptionFrame : Prop :=
  (∀ code : Byte, encode (.setexc code) = 0x04000000#32 ||| code.setWidth 32) ∧
  (∀ (w : Word32) (s : State), w.toNat / 2 ^ 24 = 4 → w.toNat / 2 ^ 8 % 2 ^ 16 ≠ 0 →
    runCommand w s = .next { s with err := 3#4, errstk := true }) ∧
  (∀ (code : Byte) (s : State), ∃ t, exec (.setexc code) s = .next t ∧
    t = { s with exc := 1#1, payload := t.payload, paylen := 1#12, err := 0#4 } ∧
    payloadByte t 0 = code ∧ (∀ k, 1 ≤ k → payloadByte t k = payloadByte s k) ∧
    (∀ off, off + 5 ≤ s.cfg.bufSize → ∃ u, exec (.serialize off) t = .next u ∧
      wireByte u (off + 1) = 0x80#8 ||| s.func.setWidth 8)) ∧
  (∀ s : State, s.station = 0x01#8 → s.func = 0x63#7 → s.exc = 0#1 → s.paylen = 0#12 →
    encode (.setexc 0x01#8) = 0x04000001#32 ∧
    ∃ t u, exec (.setexc 0x01#8) s = .next t ∧ exec (.serialize 0) t = .next u ∧
      t.exc = 1#1 ∧ t.paylen = 1#12 ∧ payloadByte t 0 = 0x01#8 ∧
      (List.range 5).map (wireByte u) = [0x01#8, 0xE3#8, 0x01#8, 0xA8#8, 0xF0#8] ∧
      u.len = 5#12 ∧ u.crcout = 0xF0A8#16)

/-- R145: `CHECK off, cnt`, its word, its two errors in their order (each clears `MATCH` and leaves `CRCOUT`), its effect (a mismatch is no error), and its two examples. -/
def Obligations.CheckComparesTheCrc : Prop :=
  (∀ off cnt : Nat, off < 4096 → cnt < 4096 →
    encode (.check off cnt) = 0x05000000#32 ||| (BitVec.ofNat 32 cnt <<< 12) ||| BitVec.ofNat 32 off) ∧
  (∀ (off cnt : Nat) (s : State),
    (cnt < 4 → exec (.check off cnt) s =
      .next { s with err := 1#4, errstk := true, matched := false }) ∧
    (4 ≤ cnt → s.cfg.bufSize < off + cnt → exec (.check off cnt) s =
      .next { s with err := 2#4, errstk := true, matched := false }) ∧
    (4 ≤ cnt → off + cnt ≤ s.cfg.bufSize →
      let c := crc16 ((List.range (cnt - 2)).map fun k => wireByte s (off + k))
      let r := (wireByte s (off + cnt - 2)).setWidth 16 |||
        ((wireByte s (off + cnt - 1)).setWidth 16 <<< 8)
      exec (.check off cnt) s = .next { s with crcout := c, matched := decide (c = r), err := 0#4 })) ∧
  (∀ s : State, 8 ≤ s.cfg.bufSize → (List.range 8).map (wireByte s) =
      [0x01#8, 0x03#8, 0x00#8, 0x00#8, 0x00#8, 0x01#8, 0x84#8, 0x0A#8] →
    encode (.check 0 8) = 0x05008000#32 ∧
    exec (.check 0 8) s = .next { s with crcout := 0x0A84#16, matched := true, err := 0#4 }) ∧
  (∀ s : State, 8 ≤ s.cfg.bufSize → (List.range 8).map (wireByte s) =
      [0x01#8, 0x03#8, 0x00#8, 0x00#8, 0x00#8, 0x01#8, 0x85#8, 0x0A#8] →
    exec (.check 0 8) s = .next { s with crcout := 0x0A84#16, matched := false, err := 0#4 })

/-! ## Frames and errors -/

/-- R39 (a table that the spec derives from the command rules), the FRAME of every command: what it writes on success, and that a command error changes `STATUS` alone. Memory is compared byte by byte through the model's read of one byte; the bytes `SERIALIZE` stores to are the `PAYLEN + 4` at its operand `off`. -/
def Obligations.CommandsWriteOnlyWhatTheTableSays : Prop :=
  ∀ (i : Instr) (s t : State), exec i s = .next t →
    (t.err ≠ 0#4 →
      t = { s with err := t.err, errstk := t.errstk, matched := t.matched } ∧
      (∀ a, wireByte t a = wireByte s a) ∧ (∀ a, payloadByte t a = payloadByte s a)) ∧
    (t.err = 0#4 →
      match i with
      | .crc16 _ _ =>
        t = { s with crcout := t.crcout, err := 0#4 } ∧
        (∀ a, wireByte t a = wireByte s a) ∧ (∀ a, payloadByte t a = payloadByte s a)
      | .parse _ cnt =>
        t = { s with station := t.station, func := t.func, exc := t.exc,
                     paylen := BitVec.ofNat 12 (cnt - 4), fcrc := t.fcrc, payload := t.payload,
                     err := 0#4 } ∧
        (∀ a, wireByte t a = wireByte s a) ∧
        (∀ a, cnt - 4 ≤ a → payloadByte t a = payloadByte s a)
      | .serialize off =>
        t = { s with wire := t.wire, crcout := t.crcout, len := t.len, err := 0#4 } ∧
        (∀ a, a < off ∨ off + (s.paylen.toNat + 4) ≤ a → wireByte t a = wireByte s a) ∧
        (∀ a, payloadByte t a = payloadByte s a)
      | .setexc _ =>
        t = { s with exc := 1#1, paylen := 1#12, payload := t.payload, err := 0#4 } ∧
        (∀ a, wireByte t a = wireByte s a) ∧
        (∀ a, 1 ≤ a → payloadByte t a = payloadByte s a)
      | .check _ _ =>
        t = { s with crcout := t.crcout, matched := t.matched, err := 0#4 } ∧
        (∀ a, wireByte t a = wireByte s a) ∧ (∀ a, payloadByte t a = payloadByte s a))

/-- R204: a command that ends with an error sets `ERR` and `ERRSTK`, clears `MATCH` if it is `CHECK` (opcode 5), and changes nothing else. -/
def Obligations.CommandErrorChangesStatusAlone : Prop :=
  ∀ (s t : State) (w : Word32) (rest : List HostEvent),
    s.events = .access ⟨.write w, 32, 0x0000⟩ :: rest → step s = .next t → t.err ≠ 0#4 →
    t = { s with
      events := rest, err := t.err, errstk := true,
      matched := if w.toNat / 2 ^ 24 = 5 then false else s.matched }

/-- R205: one error is reported, the first of illegal word, short range, range outside WIRE. For every word the code left in `ERR` is said, 0 included. -/
def Obligations.ErrorPriorityDecidesTheCode : Prop :=
  (∀ (s : State) (w : Word32) (rest : List HostEvent),
    s.events = .access ⟨.write w, 32, 0x0000⟩ :: rest →
    let op := w.toNat / 2 ^ 24
    let b := w.toNat / 2 ^ 12 % 2 ^ 12
    let a := w.toNat % 2 ^ 12
    ∃ t, step s = .next t ∧ t.err =
      if opcodeRows.any (fun r => rowMatches r w) = false then 3#4
      else if (op = 2 ∨ op = 5) ∧ b < 4 then 1#4
      else if ((op = 1 ∨ op = 2 ∨ op = 5) ∧ s.cfg.bufSize < a + b) ∨
          (op = 3 ∧ s.cfg.bufSize < a + s.paylen.toNat + 4) then 2#4
      else 0#4) ∧
  (∀ s : State, ∃ t, exec (.parse 4095 3) s = .next t ∧ t.err = 1#4)

/-- R207: `ERRSTK` is set by a failing command and cleared only by the host's write of 1 to bit 5 of `STATUS` or by reset; a `CHECK` that ends in `OK` with `MATCH = 0` does not set it. For every step the bit's new value is said. -/
def Obligations.StickyBitRule : Prop :=
  (∀ s t : State, step s = .next t →
    match s.events with
    | [] => t.errstk = s.errstk
    | .reset :: _ => t.errstk = false
    | .access a :: _ =>
      match a.op with
      | .read => t.errstk = s.errstk
      | .write v =>
        t.errstk =
          if a.offset = 0x0000 then s.errstk || decide (t.err ≠ 0#4)
          else if a.offset = 0x0004 ∧ v.getLsbD 5 = true then false
          else s.errstk) ∧
  (∀ (off cnt : Nat) (s t : State), exec (.check off cnt) s = .next t → t.err = 0#4 →
    t.matched = false → t.errstk = s.errstk)

/-- Which host accesses can change each register, each field of `STATUS` and each byte: nothing else does (R21 to R30, R34, R35, R40). That an access which answers is 32 bits wide is said with it. An opcode is bits 31:24 of a word written to `CMD`. -/
def Obligations.EachRegisterHasItsWriters : Prop :=
  ∀ (s t : State) (a : HostAccess) (rest : List HostEvent),
    s.events = .access a :: rest → step s = .next t →
    let writes := fun (off : Nat) => a.width = 32 ∧ a.offset = off ∧ a.op ≠ .read
    let command := fun (ops : List Nat) =>
      ∃ w, a.op = .write w ∧ a.width = 32 ∧ a.offset = 0x0000 ∧ w.toNat / 2 ^ 24 ∈ ops
    (t.station ≠ s.station → writes 0x0010 ∨ command [2]) ∧
    (t.func ≠ s.func → writes 0x0014 ∨ command [2]) ∧
    (t.exc ≠ s.exc → writes 0x0018 ∨ command [2, 4]) ∧
    (t.paylen ≠ s.paylen → writes 0x001C ∨ command [2, 4]) ∧
    (t.fcrc ≠ s.fcrc → writes 0x0020 ∨ command [2]) ∧
    (t.crcout ≠ s.crcout → command [1, 3, 5]) ∧
    (t.len ≠ s.len → command [3]) ∧
    (t.err ≠ s.err → writes 0x0000) ∧
    (t.matched ≠ s.matched → command [5]) ∧
    (t.errstk ≠ s.errstk → writes 0x0000 ∨ writes 0x0004) ∧
    (∀ i, wireByte t i ≠ wireByte s i → writes (0x4000 + 4 * i) ∨ command [3]) ∧
    (∀ i, payloadByte t i ≠ payloadByte s i → writes (0x8000 + 4 * i) ∨ command [2, 4])

/-! ## The host port -/

/-- R59: a host read of each mapped offset returns the register or byte zero-extended to 32 bits and changes no state of the block; `CMD` reads 0; the same offset read twice gives the same value. -/
def Obligations.HostReadReturnsTheRegister : Prop :=
  (∀ (s : State) (rest : List HostEvent) (off : Nat) (v : Word32),
    ((off, v) ∈
        [(0x0000, 0#32),
         (0x0004, BitVec.ofNat 32
            (s.err.toNat + (if s.matched then 16 else 0) + (if s.errstk then 32 else 0))),
         (0x0008, s.crcout.setWidth 32), (0x000C, s.len.setWidth 32),
         (0x0010, s.station.setWidth 32), (0x0014, s.func.setWidth 32),
         (0x0018, s.exc.setWidth 32), (0x001C, s.paylen.setWidth 32),
         (0x0020, s.fcrc.setWidth 32), (0x0024, BitVec.ofNat 32 s.cfg.bufSize)] ∨
      (∃ i, i < s.cfg.bufSize ∧ off = 0x4000 + 4 * i ∧ v = (wireByte s i).setWidth 32) ∨
      (∃ i, i < s.cfg.paySize ∧ off = 0x8000 + 4 * i ∧ v = (payloadByte s i).setWidth 32)) →
    step { s with events := .access ⟨.read, 32, off⟩ :: rest } =
      .next { s with events := rest, replies := s.replies ++ [v] }) ∧
  (∀ (s t u : State) (rest : List HostEvent) (off : Nat),
    s.events = .access ⟨.read, 32, off⟩ :: .access ⟨.read, 32, off⟩ :: rest →
    step s = .next t → step t = .next u →
    ∃ v, u = { s with events := rest, replies := s.replies ++ [v, v] })

/-- R60: a host write of each mapped read-write offset stores the low bits of the word and has no other effect; a write of `STATUS` can clear `ERRSTK` and a write of `CMD` executes the command. -/
def Obligations.HostWriteStoresTheLowBits : Prop :=
  ∀ (s : State) (v : Word32) (rest : List HostEvent),
    let write := fun (off : Nat) => step { s with events := .access ⟨.write v, 32, off⟩ :: rest }
    let s' := { s with events := rest }
    write 0x0010 = .next { s' with station := v.setWidth 8 } ∧
    write 0x0014 = .next { s' with func := v.setWidth 7 } ∧
    write 0x0018 = .next { s' with exc := v.setWidth 1 } ∧
    write 0x001C = .next { s' with paylen := v.setWidth 12 } ∧
    write 0x0020 = .next { s' with fcrc := v.setWidth 16 } ∧
    (∀ i, i < s.cfg.bufSize → ∃ t, write (0x4000 + 4 * i) = .next t ∧
      t = { s' with wire := t.wire } ∧ wireByte t i = v.setWidth 8 ∧
      ∀ j, j ≠ i → wireByte t j = wireByte s j) ∧
    (∀ i, i < s.cfg.paySize → ∃ t, write (0x8000 + 4 * i) = .next t ∧
      t = { s' with payload := t.payload } ∧ payloadByte t i = v.setWidth 8 ∧
      ∀ j, j ≠ i → payloadByte t j = payloadByte s j) ∧
    write 0x0004 = .next { s' with errstk := if v.getLsbD 5 then false else s.errstk } ∧
    (∀ i, decode v = .command i → write 0x0000 = exec i s')

/-- A host access is a `HostFault`, with no next state and no value, in exactly the four cases of R57, and has a next state otherwise; a read of `CMD` returns 0. Two things in it are the model's and not the rule's (notes/assumptions/7.md): that a refused access is a fault with no successor is a DESIGN CHOICE, one of the two forms R57 offers, and that an offset of 0xC000 and above, which R58 calls not part of the block, is refused is DEDUCED. -/
def Obligations.HostFaultExactlyOutsideTheMap : Prop :=
  (∀ (s : State) (a : HostAccess) (rest : List HostEvent), s.events = .access a :: rest →
    let mapped :=
      a.offset ∈ [0x0000, 0x0004, 0x0008, 0x000C, 0x0010, 0x0014, 0x0018, 0x001C, 0x0020, 0x0024] ∨
      (0x4000 ≤ a.offset ∧ a.offset < 0x4000 + 4 * s.cfg.bufSize) ∨
      (0x8000 ≤ a.offset ∧ a.offset < 0x8000 + 4 * (s.cfg.bufSize - 4))
    let refused :=
      a.width ≠ 32 ∨ a.offset % 4 ≠ 0 ∨ ¬ mapped ∨
      ((∃ v, a.op = .write v) ∧ a.offset ∈ [0x0008, 0x000C, 0x0024])
    (refused → ∃ c, step s = .fault (.hostFault c)) ∧ (¬ refused → ∃ t, step s = .next t)) ∧
  (∀ (s : State) (rest : List HostEvent),
    step { s with events := .access ⟨.read, 32, 0x0000⟩ :: rest } =
      .next { s with events := rest, replies := s.replies ++ [0#32] })

/-- R32: `CAP` reads `BUF_SIZE` in bits 11:0 and 0 above, a host write to it is a `HostFault`, and nothing changes it, reset included. -/
def Obligations.CapIsTheConstantMemorySize : Prop :=
  (∀ (s : State) (rest : List HostEvent), ∃ v : Word32,
    step { s with events := .access ⟨.read, 32, 0x0024⟩ :: rest } =
      .next { s with events := rest, replies := s.replies ++ [v] } ∧
    v.toNat % 2 ^ 12 = s.cfg.bufSize ∧ v.toNat / 2 ^ 12 = 0) ∧
  (∀ (s : State) (w : Word32) (rest : List HostEvent),
    step { s with events := .access ⟨.write w, 32, 0x0024⟩ :: rest } =
      .fault (.hostFault .readOnly)) ∧
  (∀ s t : State, step s = .next t → t.cfg = s.cfg)

/-- A host read of a memory byte returns the latest host write to it and nothing of a write elsewhere; no byte of WIRE is a byte of PAYLOAD (R35, R60, R62). -/
def Obligations.ReadReturnsTheLatestWrite : Prop :=
  ∀ (s : State) (v : Word32) (rest : List HostEvent) (i j : Nat),
    (i < s.cfg.bufSize → j < s.cfg.bufSize →
      s.events = .access ⟨.write v, 32, 0x4000 + 4 * i⟩ :: .access ⟨.read, 32, 0x4000 + 4 * j⟩ :: rest →
      ∃ t u, step s = .next t ∧ step t = .next u ∧ u.replies =
        s.replies ++ [if j = i then (v.setWidth 8).setWidth 32 else (wireByte s j).setWidth 32]) ∧
    (i < s.cfg.paySize → j < s.cfg.paySize →
      s.events = .access ⟨.write v, 32, 0x8000 + 4 * i⟩ :: .access ⟨.read, 32, 0x8000 + 4 * j⟩ :: rest →
      ∃ t u, step s = .next t ∧ step t = .next u ∧ u.replies =
        s.replies ++ [if j = i then (v.setWidth 8).setWidth 32 else (payloadByte s j).setWidth 32]) ∧
    (i < s.cfg.bufSize → j < s.cfg.paySize →
      s.events = .access ⟨.write v, 32, 0x4000 + 4 * i⟩ :: .access ⟨.read, 32, 0x8000 + 4 * j⟩ :: rest →
      ∃ t u, step s = .next t ∧ step t = .next u ∧ u.replies =
        s.replies ++ [(payloadByte s j).setWidth 32])

/-! ## The CRC unit -/

/-- R101, R103, R104: the bit step, the byte step and the CRC of a sequence, from their definitions. The spec supplies the algorithm below its name and constants from general knowledge (notes/assumptions/8.md). -/
def Obligations.CrcStepsAreTheDefined : Prop :=
  (∀ c : Word16, bitstep c = if c.getLsbD 0 = true then (c >>> 1) ^^^ 0xA001#16 else c >>> 1) ∧
  (∀ (c : Word16) (d : Byte), crcUpdate c d =
    bitstep (bitstep (bitstep (bitstep (bitstep (bitstep (bitstep (bitstep (c ^^^ d.setWidth 16)))))))) ) ∧
  crc16 [] = 0xFFFF#16 ∧
  (∀ (bs : List Byte) (d : Byte), crc16 (bs ++ [d]) = crcUpdate (crc16 bs) d)

/-- R102: each entry of the 16-entry table is four bit steps of its index, and the values are those printed, which the spec derives from R101. -/
def Obligations.CrcTableValues : Prop :=
  (∀ i : BitVec 4, crcTable i = bitstep (bitstep (bitstep (bitstep (i.setWidth 16))))) ∧
  (List.range 16).map (fun i => crcTable (BitVec.ofNat 4 i)) =
    [0x0000#16, 0xCC01#16, 0xD801#16, 0x1400#16, 0xF001#16, 0x3C00#16, 0x2800#16, 0xE401#16,
     0xA001#16, 0x6C00#16, 0x7800#16, 0xB401#16, 0x5000#16, 0x9C01#16, 0x8801#16, 0x4400#16]

/-- R105: the nibble form, low nibble of the byte first, is the byte step, for every register and every byte. The spec derives this from R101 to R103. -/
def Obligations.CrcNibbleFormIsTheByteStep : Prop :=
  ∀ (c : Word16) (d : Byte),
    let c₁ := crcTable ((c ^^^ d.setWidth 16).extractLsb' 0 4) ^^^ (c >>> 4)
    let c₂ := crcTable ((c₁ ^^^ (d >>> 4).setWidth 16).extractLsb' 0 4) ^^^ (c₁ >>> 4)
    c₂ = crcUpdate c d ∧ crcUpdateNibbles c d = c₂

/-- R111: the CRC of the document's test frame, and the running register after each byte. -/
def Obligations.CrcOfTheDocumentFrame : Prop :=
  (List.range 7).map (fun n => crc16 (List.take n [0x01#8, 0x03#8, 0x00#8, 0x00#8, 0x00#8, 0x01#8])) =
    [0xFFFF#16, 0x807E#16, 0x2140#16, 0xF020#16, 0xD8F1#16, 0x8419#16, 0x0A84#16]

/-- R107 (c): a byte step is a bijection of the register and injective in the byte, so two sequences of one length that differ in exactly one byte have different CRCs. -/
def Obligations.CrcDetectsAOneByteChange : Prop :=
  (∀ d : Byte, Function.Bijective fun c : Word16 => crcUpdate c d) ∧
  (∀ c : Word16, Function.Injective fun d : Byte => crcUpdate c d) ∧
  (∀ (xs ys : List Byte) (x y : Byte), x ≠ y → crc16 (xs ++ x :: ys) ≠ crc16 (xs ++ y :: ys))

/-- R107 (d): the CRC over a sequence and two bytes more is zero exactly when the two bytes are the sequence's CRC, low byte first. -/
def Obligations.CrcResidueIsZeroExactlyForTheCrcBytes : Prop :=
  ∀ (bs : List Byte) (x y : Byte),
    crc16 (bs ++ [x, y]) = 0x0000#16 ↔
      x = (crc16 bs).extractLsb' 0 8 ∧ y = (crc16 bs).extractLsb' 8 8

/-! ## The wire format -/

/-- R71: the function byte is assembled as `(EXC << 7) OR FUNC` and splits into bits 7 and 6:0, and the two directions are exact inverses. -/
def Obligations.FunctionByteSplitsAndAssembles : Prop :=
  (∀ fb : Byte, exceptionFlag fb = fb.extractLsb' 7 1 ∧ functionCode fb = fb.extractLsb' 0 7) ∧
  (∀ (e : BitVec 1) (f : BitVec 7), functionByte e f = (e.setWidth 8 <<< 7) ||| f.setWidth 8) ∧
  (∀ fb : Byte, functionByte (exceptionFlag fb) (functionCode fb) = fb) ∧
  (∀ (e : BitVec 1) (f : BitVec 7),
    exceptionFlag (functionByte e f) = e ∧ functionCode (functionByte e f) = f)

/-- R72: the two CRC bytes assemble as `crcLow OR (crcHigh << 8)` and split as bits 7:0 and 15:8, each direction undoing the other; the low byte comes first on the wire. -/
def Obligations.CrcBytesSplitAndAssemble : Prop :=
  (∀ lo hi : Byte, joinCrc lo hi = lo.setWidth 16 ||| (hi.setWidth 16 <<< 8)) ∧
  (∀ c : Word16, joinCrc (c.extractLsb' 0 8) (c.extractLsb' 8 8) = c) ∧
  (∀ lo hi : Byte, (joinCrc lo hi).extractLsb' 0 8 = lo ∧ (joinCrc lo hi).extractLsb' 8 8 = hi) ∧
  (∀ c : Word16, crcBytes c = [c.extractLsb' 0 8, c.extractLsb' 8 8])

/-- After a successful `PARSE` the frame registers hold the whole range and nothing else: put back in wire order they are the bytes parsed, so no information is lost (R123). -/
def Obligations.ParseLosesNothing : Prop :=
  ∀ (off cnt : Nat) (s t : State), exec (.parse off cnt) s = .next t → t.err = 0#4 →
    [t.station, functionByte t.exc t.func] ++ payloadBytes t t.paylen.toNat ++
        [t.fcrc.extractLsb' 0 8, t.fcrc.extractLsb' 8 8] = wireBytes s off cnt ∧
      wireBytes t off cnt = wireBytes s off cnt ∧ t.paylen.toNat + 4 = cnt

/-- `PARSE` does not validate the CRC: with other bytes in the place of the last two, it does the same, but for what `FCRC` holds (R121). -/
def Obligations.ParseDoesNotValidateTheCrc : Prop :=
  ∀ (off cnt : Nat) (s t : State) (m : Memory), 4 ≤ cnt →
    (∀ k, k < cnt - 2 → wireByte { s with wire := m } (off + k) = wireByte s (off + k)) →
    exec (.parse off cnt) s = .next t →
    ∃ c, exec (.parse off cnt) { s with wire := m } = .next { t with wire := m, fcrc := c }

/-- No command reads PAYLOAD at `PAYLEN` and above: with other bytes there, `SERIALIZE` does the same (R26). -/
def Obligations.SerializeIgnoresBytesAboveTheFrame : Prop :=
  ∀ (off : Nat) (s t : State) (m : Memory),
    (∀ k, k < s.paylen.toNat → payloadByte { s with payload := m } k = payloadByte s k) →
    exec (.serialize off) s = .next t →
    exec (.serialize off) { s with payload := m } = .next { t with payload := m }

/-! ## The commands together -/

/-- R131: `SERIALIZE` never reads `FCRC`, the CRC bytes written are those of the bytes written before them, and directly after it `CHECK off, LEN` gives `MATCH = 1`. -/
def Obligations.SerializedFramePassesCheck : Prop :=
  (∀ (off : Nat) (s t : State) (x : Word16), exec (.serialize off) s = .next t →
    exec (.serialize off) { s with fcrc := x } = .next { t with fcrc := x }) ∧
  (∀ (off : Nat) (s t : State), exec (.serialize off) s = .next t → t.err = 0#4 →
    wireByte t (off + t.len.toNat - 2) = (crc16 (wireBytes t off (t.len.toNat - 2))).extractLsb' 0 8 ∧
    wireByte t (off + t.len.toNat - 1) = (crc16 (wireBytes t off (t.len.toNat - 2))).extractLsb' 8 8 ∧
    ∃ u, exec (.check off t.len.toNat) t = .next u ∧ u.matched = true ∧ u.err = 0#4)

/-- A successful `SERIALIZE off` and then `PARSE off, LEN` leave the four fields of the frame held as they were, and `FCRC` is the fresh CRC, equal to the old `FCRC` only if the frame was consistent (R132). -/
def Obligations.ParseOfSerializeIsTheFrame : Prop :=
  ∀ (off : Nat) (s : State), off + s.paylen.toNat + 4 ≤ s.cfg.bufSize →
    ∃ t u f, exec (.serialize off) s = .next t ∧ exec (.parse off t.len.toNat) t = .next u ∧
      u.err = 0#4 ∧ heldFrame4 s = some f ∧ heldFrame4 u = some f ∧ u.fcrc = t.crcout ∧
      (u.fcrc = s.fcrc ↔ frameConsistent s = true)

/-- A successful `PARSE off, cnt` and then `SERIALIZE off2` write the parsed bytes, the last two of which are the old ones exactly when the parsed frame's CRC was right (R132). -/
def Obligations.SerializeOfParseIsTheRange : Prop :=
  ∀ (off off2 cnt : Nat) (s : State), 4 ≤ cnt → off + cnt ≤ s.cfg.bufSize →
    off2 + cnt ≤ s.cfg.bufSize →
    ∃ t u, exec (.parse off cnt) s = .next t ∧ exec (.serialize off2) t = .next u ∧
      wireBytes u off2 (cnt - 2) = wireBytes s off (cnt - 2) ∧ u.len.toNat = cnt ∧
      (wireBytes u (off2 + cnt - 2) 2 = wireBytes s (off + cnt - 2) 2 ↔
        receivedCrc s off cnt = crc16 (wireBytes s off (cnt - 2)))

/-- R146 (a) to (e), which the spec derives from the command rules and R107: what `CHECK` says of a range is what comparing `CRCOUT` with the `FCRC` of a `PARSE` says, what the consistency of the parsed frame says, and what the CRC of the whole range being zero says; it leaves the CRC of the first `cnt - 2` bytes; and a serialized frame passes. -/
def Obligations.CheckAgreesWithTheOtherCommands : Prop :=
  (∀ (off cnt : Nat) (s : State), 4 ≤ cnt → off + cnt ≤ s.cfg.bufSize →
    ∃ p k c d, exec (.parse off cnt) s = .next p ∧ exec (.check off cnt) p = .next k ∧
      exec (.crc16 off cnt) s = .next c ∧ exec (.crc16 off (cnt - 2)) s = .next d ∧
      (k.matched = true ↔ k.crcout = p.fcrc) ∧
      (k.matched = true ↔ frameConsistent p = true) ∧
      (k.matched = true ↔ c.crcout = 0x0000#16) ∧ k.crcout = d.crcout) ∧
  (∀ (off : Nat) (s : State), off + s.paylen.toNat + 4 ≤ s.cfg.bufSize →
    ∃ t u, exec (.serialize off) s = .next t ∧ exec (.check off t.len.toNat) t = .next u ∧
      u.matched = true)

/-- R147, which the spec derives from R145 and R107: if a frame passes `CHECK`, it no longer passes after any change confined to its two CRC bytes, nor after a change of exactly one byte before them. -/
def Obligations.CheckDetectsCorruption : Prop :=
  ∀ (off cnt : Nat) (s u : State), exec (.check off cnt) s = .next u → u.matched = true →
    (∀ x y : Byte, (x ≠ wireByte s (off + cnt - 2) ∨ y ≠ wireByte s (off + cnt - 1)) →
      ∃ v, exec (.check off cnt) (writeWire (off + cnt - 2) [x, y] s) = .next v ∧
        v.err = 0#4 ∧ v.crcout = u.crcout ∧ v.matched = false) ∧
    (∀ (k : Nat) (x : Byte), k < cnt - 2 → x ≠ wireByte s (off + k) →
      ∃ v, exec (.check off cnt) (writeWire (off + k) [x] s) = .next v ∧
        v.err = 0#4 ∧ v.crcout ≠ u.crcout ∧ v.matched = false)

/-- Every command is idempotent: repeated with nothing between, it leaves the state as it was left (R65). The premise is the invariant that every step keeps. -/
def Obligations.CommandsAreIdempotent : Prop :=
  ∀ (i : Instr) (s t : State), Inv s → exec i s = .next t → exec i t = .next t

/-- `SETEXC` and then `SERIALIZE` put the five bytes of an exception frame on the wire, its function byte with bit 7 set, its payload the one code (R41, R77, R133). -/
def Obligations.ExceptionFrameOnTheWire : Prop :=
  ∀ (off : Nat) (code : Byte) (s : State), off + 5 ≤ s.cfg.bufSize →
    let body := [s.station, 0x80#8 ||| s.func.setWidth 8, code]
    ∃ t u, exec (.setexc code) s = .next t ∧ isExceptionFrame t = true ∧
      exec (.serialize off) t = .next u ∧ u.len = 5#12 ∧
      wireBytes u off 5 = body ++ [(crc16 body).extractLsb' 0 8, (crc16 body).extractLsb' 8 8]

/-! ## Reset, the invariant, whole runs -/

/-- R231: when reset ends every register has its value of R38, the frame held is `(0, 0, false, empty, 0x0000)`, and it is not consistent, since the CRC of `00 00` is 0xB001, which is harmless, since no command reads `FCRC`: with another value in it, every command does the same but for what `FCRC` then holds. Said of the state after reset and of a reset applied to any state. -/
def Obligations.ResetGivesTheTable : Prop :=
  let table := fun (t : State) =>
    t.station = 0x00#8 ∧ t.func = 0x00#7 ∧ t.exc = 0#1 ∧ t.paylen = 0#12 ∧ t.fcrc = 0x0000#16 ∧
    t.crcout = 0xFFFF#16 ∧ t.len = 0#12 ∧ statusWord t = 0#32 ∧
    heldFrame t = some { station := 0x00#8, function := 0x00#7, isException := false,
                         payload := [], crc := 0x0000#16 } ∧
    frameConsistent t = false
  table State.reset ∧ crc16 [0x00#8, 0x00#8] = 0xB001#16 ∧
  (∀ (s : State) (rest : List HostEvent), s.events = .reset :: rest →
    ∃ t, step s = .next t ∧ table t) ∧
  (∀ (i : Instr) (s t : State) (x : Word16), exec i s = .next t →
    ∃ y, exec i { s with fcrc := x } = .next { t with fcrc := y })

/-- Reset does not define the memories: each byte of them is the free value of a new epoch, whatever was written before (R232). That it is one function of the epoch and the index is the model's choice (notes/assumptions/1.md). -/
def Obligations.ResetForgetsTheMemories : Prop :=
  ∀ (s : State) (rest : List HostEvent), s.events = .reset :: rest →
    ∃ t, step s = .next t ∧ t.cfg = s.cfg ∧
      (∀ i, wireByte t i = Config.initWire (s.epoch + 1) i) ∧
      (∀ i, payloadByte t i = Config.initPayload (s.epoch + 1) i)

/-- The invariant holds right after reset, in every instance. -/
def Obligations.InvariantHoldsAtReset : Prop :=
  Inv State.reset ∧ ∀ cfg : Config, Inv (State.resetOf cfg)

/-- Every step keeps the invariant: both memories stay canonical and inside their sizes, `ERR` never takes a value above 3 (R30), `LEN` is 0 or the length of a frame that fits in WIRE (R29), and `CRCOUT` is at all times the CRC of some byte sequence (R28). -/
def Obligations.EveryStepKeepsTheInvariant : Prop :=
  ∀ s t : State, Inv s → step s = .next t → Inv t

/-- A run of the host's whole list is good exactly when every access in it is one that the map of the instance admits, whatever the commands do, and it ends with the list taken (R57, R237). Two things in it are the model's (notes/assumptions/7.md): that a refused access ends the run is a DESIGN CHOICE, and that the map refuses an offset of 0xC000 and above is DEDUCED. -/
def Obligations.GoodRunExactlyWhenEveryAccessIsAdmitted : Prop :=
  (∀ s : State, GoodRun s ↔ ∀ e ∈ s.events, admitsEvent s.cfg e = true) ∧
  (∀ s t : State, RunEnds s t → t.events = [])
end

