-- ==== Sys2Proof/Laws/Memory.lean ====
section
/-! SUPPORT. The memory laws: a read after a write to the same index gives the byte written, a write leaves every other index alone, and every write keeps the canonical form and the bound on the indices. -/

namespace Sys2Proof.Machine

@[simp] theorem memGet_nil (a : Nat) : memGet [] a = none := rfl

theorem memGet_memSet (m : Memory) (a c : Nat) (v : Byte) :
    memGet (memSet m a v) c = if c = a then some v else memGet m c := by
  induction m with
  | nil => simp [memSet, memGet]
  | cons x m ih =>
    obtain ⟨b, w⟩ := x
    by_cases h1 : a < b
    · simp [memSet, memGet, h1]
    · by_cases h2 : a = b
      · subst h2
        by_cases hc : c = a <;> simp [memSet, memGet, hc]
      · by_cases hc : c = b
        · have : ¬ c = a := by omega
          simp [memSet, memGet, h1, h2, hc]
          omega
        · simp [memSet, memGet, h1, h2, hc, ih]

@[simp] theorem memGet_memSet_same (m : Memory) (a : Nat) (v : Byte) :
    memGet (memSet m a v) a = some v := by simp [memGet_memSet]

theorem memGet_memSet_other (m : Memory) {a c : Nat} (v : Byte) (h : c ≠ a) :
    memGet (memSet m a v) c = memGet m c := by simp [memGet_memSet, h]

/-- An index below the written bytes reads as before. -/
theorem memGet_memSetBytes_below (m : Memory) (a c : Nat) (bs : List Byte) (h : c < a) :
    memGet (memSetBytes m a bs) c = memGet m c := by
  induction bs generalizing m a with
  | nil => rfl
  | cons v bs ih =>
    rw [memSetBytes, ih _ _ (by omega), memGet_memSet_other _ _ (by omega)]

/-- What a write of a run of bytes does to every index. -/
theorem memGet_memSetBytes (m : Memory) (a c : Nat) (bs : List Byte) :
    memGet (memSetBytes m a bs) c =
      if a ≤ c ∧ c < a + bs.length then bs[c - a]? else memGet m c := by
  induction bs generalizing m a with
  | nil =>
    have : ¬ (a ≤ c ∧ c < a) := by omega
    simp [memSetBytes, this]
  | cons v bs ih =>
    rw [memSetBytes]
    by_cases hc : c = a
    · subst hc
      rw [memGet_memSetBytes_below _ _ _ _ (by omega)]
      simp
    · rw [ih, memGet_memSet_other _ _ hc]
      by_cases h : a + 1 ≤ c ∧ c < a + 1 + bs.length
      · have h' : a ≤ c ∧ c < a + (v :: bs).length := by simp; omega
        obtain ⟨k, rfl⟩ : ∃ k, c = a + 1 + k := ⟨c - (a + 1), by omega⟩
        rw [if_pos h, if_pos h']
        have e1 : a + 1 + k - (a + 1) = k := by omega
        have e2 : a + 1 + k - a = k + 1 := by omega
        rw [e1, e2, List.getElem?_cons_succ]
      · have h' : ¬ (a ≤ c ∧ c < a + (v :: bs).length) := by simp; omega
        rw [if_neg h, if_neg h']

theorem memSet_index (m : Memory) (a : Nat) (v : Byte) :
    ∀ x ∈ memSet m a v, x.1 = a ∨ x ∈ m := by
  induction m with
  | nil => simp [memSet]
  | cons y m ih =>
    obtain ⟨b, w⟩ := y
    intro x hx
    unfold memSet at hx
    split at hx
    · rcases List.mem_cons.1 hx with rfl | h
      · exact .inl rfl
      · exact .inr h
    · split at hx
      · rcases List.mem_cons.1 hx with rfl | h
        · exact .inl rfl
        · exact .inr (List.mem_cons_of_mem _ h)
      · rcases List.mem_cons.1 hx with rfl | h
        · exact .inr List.mem_cons_self
        · exact (ih x h).imp_right (List.mem_cons_of_mem _)

/-- A write keeps the canonical form. -/
theorem memSet_wf {m : Memory} (h : Memory.wf m) (a : Nat) (v : Byte) :
    Memory.wf (memSet m a v) := by
  induction m with
  | nil => simp [memSet]
  | cons y m ih =>
    obtain ⟨b, w⟩ := y
    obtain ⟨hb, hm⟩ := List.pairwise_cons.1 h
    unfold memSet
    split
    · refine List.pairwise_cons.2 ⟨fun x hx => ?_, h⟩
      rcases List.mem_cons.1 hx with rfl | hx
      · assumption
      · have := hb x hx; simp at this ⊢; omega
    · split
      · subst_vars
        exact List.pairwise_cons.2 ⟨hb, hm⟩
      · refine List.pairwise_cons.2 ⟨fun x hx => ?_, ih hm⟩
        rcases memSet_index _ _ _ x hx with hx | hx
        · simp [hx]; omega
        · exact hb x hx

/-- A write of a run of bytes keeps the canonical form. -/
theorem memSetBytes_wf {m : Memory} (h : Memory.wf m) (a : Nat) (bs : List Byte) :
    Memory.wf (memSetBytes m a bs) := by
  induction bs generalizing m a with
  | nil => exact h
  | cons v bs ih => exact ih (memSet_wf h a v) (a + 1)

/-- A write inside the memory keeps the bound on the indices. -/
theorem memSet_below {m : Memory} {n a : Nat} (h : Memory.below n m) (ha : a < n) (v : Byte) :
    Memory.below n (memSet m a v) := by
  intro x hx
  rcases memSet_index _ _ _ x hx with hx | hx
  · omega
  · exact h x hx

/-- A run of bytes inside the memory keeps the bound on the indices. -/
theorem memSetBytes_below {m : Memory} {n a : Nat} {bs : List Byte} (h : Memory.below n m)
    (ha : a + bs.length ≤ n) : Memory.below n (memSetBytes m a bs) := by
  induction bs generalizing m a with
  | nil => exact h
  | cons v bs ih =>
    rw [List.length_cons] at ha
    exact ih (memSet_below h (by omega) v) (by omega)

/-- In a canonical memory, writing the byte an index already lists changes nothing. -/
theorem memSet_of_memGet {m : Memory} (h : Memory.wf m) {a : Nat} {v : Byte}
    (hg : memGet m a = some v) : memSet m a v = m := by
  induction m with
  | nil => simp at hg
  | cons y m ih =>
    obtain ⟨b, w⟩ := y
    obtain ⟨hb, hm⟩ := List.pairwise_cons.1 h
    unfold memGet at hg
    split at hg
    · next hab =>
      subst hab
      have hw : w = v := by simpa using hg
      simp [memSet, hw]
    · next hab =>
      have hlt : b < a := by
        have key : ∀ (l : Memory), memGet l a = some v → ∃ x ∈ l, x.1 = a := by
          intro l
          induction l with
          | nil => simp
          | cons z l ihl =>
            obtain ⟨c, u⟩ := z
            intro hz
            unfold memGet at hz
            split at hz
            · exact ⟨_, List.mem_cons_self, by simp [*]⟩
            · obtain ⟨x, hx, e⟩ := ihl hz
              exact ⟨x, List.mem_cons_of_mem _ hx, e⟩
        obtain ⟨x, hx, e⟩ := key m hg
        have := hb x hx
        simp at this; omega
      rw [memSet, if_neg (by omega), if_neg hab, ih hm hg]

end Sys2Proof.Machine
end

