-- ==== Sys2Proof/Laws/State.lean ====
section
/-! SUPPORT. One lemma per field per update of State, so that no later proof unfolds a record update. -/

namespace Sys2Proof.Machine

variable (s : State)

@[simp] theorem setStation_cfg (v : Byte) : (setStation v s).cfg = s.cfg := rfl
@[simp] theorem setStation_station (v : Byte) : (setStation v s).station = v := rfl
@[simp] theorem setStation_func (v : Byte) : (setStation v s).func = s.func := rfl
@[simp] theorem setStation_exc (v : Byte) : (setStation v s).exc = s.exc := rfl
@[simp] theorem setStation_paylen (v : Byte) : (setStation v s).paylen = s.paylen := rfl
@[simp] theorem setStation_fcrc (v : Byte) : (setStation v s).fcrc = s.fcrc := rfl
@[simp] theorem setStation_payload (v : Byte) : (setStation v s).payload = s.payload := rfl
@[simp] theorem setStation_crcout (v : Byte) : (setStation v s).crcout = s.crcout := rfl
@[simp] theorem setStation_len (v : Byte) : (setStation v s).len = s.len := rfl
@[simp] theorem setStation_err (v : Byte) : (setStation v s).err = s.err := rfl
@[simp] theorem setStation_matched (v : Byte) : (setStation v s).matched = s.matched := rfl
@[simp] theorem setStation_errstk (v : Byte) : (setStation v s).errstk = s.errstk := rfl
@[simp] theorem setStation_wire (v : Byte) : (setStation v s).wire = s.wire := rfl
@[simp] theorem setStation_epoch (v : Byte) : (setStation v s).epoch = s.epoch := rfl
@[simp] theorem setStation_events (v : Byte) : (setStation v s).events = s.events := rfl
@[simp] theorem setStation_replies (v : Byte) : (setStation v s).replies = s.replies := rfl

@[simp] theorem setFunc_cfg (v : BitVec 7) : (setFunc v s).cfg = s.cfg := rfl
@[simp] theorem setFunc_station (v : BitVec 7) : (setFunc v s).station = s.station := rfl
@[simp] theorem setFunc_func (v : BitVec 7) : (setFunc v s).func = v := rfl
@[simp] theorem setFunc_exc (v : BitVec 7) : (setFunc v s).exc = s.exc := rfl
@[simp] theorem setFunc_paylen (v : BitVec 7) : (setFunc v s).paylen = s.paylen := rfl
@[simp] theorem setFunc_fcrc (v : BitVec 7) : (setFunc v s).fcrc = s.fcrc := rfl
@[simp] theorem setFunc_payload (v : BitVec 7) : (setFunc v s).payload = s.payload := rfl
@[simp] theorem setFunc_crcout (v : BitVec 7) : (setFunc v s).crcout = s.crcout := rfl
@[simp] theorem setFunc_len (v : BitVec 7) : (setFunc v s).len = s.len := rfl
@[simp] theorem setFunc_err (v : BitVec 7) : (setFunc v s).err = s.err := rfl
@[simp] theorem setFunc_matched (v : BitVec 7) : (setFunc v s).matched = s.matched := rfl
@[simp] theorem setFunc_errstk (v : BitVec 7) : (setFunc v s).errstk = s.errstk := rfl
@[simp] theorem setFunc_wire (v : BitVec 7) : (setFunc v s).wire = s.wire := rfl
@[simp] theorem setFunc_epoch (v : BitVec 7) : (setFunc v s).epoch = s.epoch := rfl
@[simp] theorem setFunc_events (v : BitVec 7) : (setFunc v s).events = s.events := rfl
@[simp] theorem setFunc_replies (v : BitVec 7) : (setFunc v s).replies = s.replies := rfl

@[simp] theorem setExc_cfg (v : BitVec 1) : (setExc v s).cfg = s.cfg := rfl
@[simp] theorem setExc_station (v : BitVec 1) : (setExc v s).station = s.station := rfl
@[simp] theorem setExc_func (v : BitVec 1) : (setExc v s).func = s.func := rfl
@[simp] theorem setExc_exc (v : BitVec 1) : (setExc v s).exc = v := rfl
@[simp] theorem setExc_paylen (v : BitVec 1) : (setExc v s).paylen = s.paylen := rfl
@[simp] theorem setExc_fcrc (v : BitVec 1) : (setExc v s).fcrc = s.fcrc := rfl
@[simp] theorem setExc_payload (v : BitVec 1) : (setExc v s).payload = s.payload := rfl
@[simp] theorem setExc_crcout (v : BitVec 1) : (setExc v s).crcout = s.crcout := rfl
@[simp] theorem setExc_len (v : BitVec 1) : (setExc v s).len = s.len := rfl
@[simp] theorem setExc_err (v : BitVec 1) : (setExc v s).err = s.err := rfl
@[simp] theorem setExc_matched (v : BitVec 1) : (setExc v s).matched = s.matched := rfl
@[simp] theorem setExc_errstk (v : BitVec 1) : (setExc v s).errstk = s.errstk := rfl
@[simp] theorem setExc_wire (v : BitVec 1) : (setExc v s).wire = s.wire := rfl
@[simp] theorem setExc_epoch (v : BitVec 1) : (setExc v s).epoch = s.epoch := rfl
@[simp] theorem setExc_events (v : BitVec 1) : (setExc v s).events = s.events := rfl
@[simp] theorem setExc_replies (v : BitVec 1) : (setExc v s).replies = s.replies := rfl

@[simp] theorem setPaylen_cfg (v : BitVec 12) : (setPaylen v s).cfg = s.cfg := rfl
@[simp] theorem setPaylen_station (v : BitVec 12) : (setPaylen v s).station = s.station := rfl
@[simp] theorem setPaylen_func (v : BitVec 12) : (setPaylen v s).func = s.func := rfl
@[simp] theorem setPaylen_exc (v : BitVec 12) : (setPaylen v s).exc = s.exc := rfl
@[simp] theorem setPaylen_paylen (v : BitVec 12) : (setPaylen v s).paylen = v := rfl
@[simp] theorem setPaylen_fcrc (v : BitVec 12) : (setPaylen v s).fcrc = s.fcrc := rfl
@[simp] theorem setPaylen_payload (v : BitVec 12) : (setPaylen v s).payload = s.payload := rfl
@[simp] theorem setPaylen_crcout (v : BitVec 12) : (setPaylen v s).crcout = s.crcout := rfl
@[simp] theorem setPaylen_len (v : BitVec 12) : (setPaylen v s).len = s.len := rfl
@[simp] theorem setPaylen_err (v : BitVec 12) : (setPaylen v s).err = s.err := rfl
@[simp] theorem setPaylen_matched (v : BitVec 12) : (setPaylen v s).matched = s.matched := rfl
@[simp] theorem setPaylen_errstk (v : BitVec 12) : (setPaylen v s).errstk = s.errstk := rfl
@[simp] theorem setPaylen_wire (v : BitVec 12) : (setPaylen v s).wire = s.wire := rfl
@[simp] theorem setPaylen_epoch (v : BitVec 12) : (setPaylen v s).epoch = s.epoch := rfl
@[simp] theorem setPaylen_events (v : BitVec 12) : (setPaylen v s).events = s.events := rfl
@[simp] theorem setPaylen_replies (v : BitVec 12) : (setPaylen v s).replies = s.replies := rfl

@[simp] theorem setFcrc_cfg (v : Word16) : (setFcrc v s).cfg = s.cfg := rfl
@[simp] theorem setFcrc_station (v : Word16) : (setFcrc v s).station = s.station := rfl
@[simp] theorem setFcrc_func (v : Word16) : (setFcrc v s).func = s.func := rfl
@[simp] theorem setFcrc_exc (v : Word16) : (setFcrc v s).exc = s.exc := rfl
@[simp] theorem setFcrc_paylen (v : Word16) : (setFcrc v s).paylen = s.paylen := rfl
@[simp] theorem setFcrc_fcrc (v : Word16) : (setFcrc v s).fcrc = v := rfl
@[simp] theorem setFcrc_payload (v : Word16) : (setFcrc v s).payload = s.payload := rfl
@[simp] theorem setFcrc_crcout (v : Word16) : (setFcrc v s).crcout = s.crcout := rfl
@[simp] theorem setFcrc_len (v : Word16) : (setFcrc v s).len = s.len := rfl
@[simp] theorem setFcrc_err (v : Word16) : (setFcrc v s).err = s.err := rfl
@[simp] theorem setFcrc_matched (v : Word16) : (setFcrc v s).matched = s.matched := rfl
@[simp] theorem setFcrc_errstk (v : Word16) : (setFcrc v s).errstk = s.errstk := rfl
@[simp] theorem setFcrc_wire (v : Word16) : (setFcrc v s).wire = s.wire := rfl
@[simp] theorem setFcrc_epoch (v : Word16) : (setFcrc v s).epoch = s.epoch := rfl
@[simp] theorem setFcrc_events (v : Word16) : (setFcrc v s).events = s.events := rfl
@[simp] theorem setFcrc_replies (v : Word16) : (setFcrc v s).replies = s.replies := rfl

@[simp] theorem writePayload_cfg (a : Nat) (bs : List Byte) : (writePayload a bs s).cfg = s.cfg := rfl
@[simp] theorem writePayload_station (a : Nat) (bs : List Byte) : (writePayload a bs s).station = s.station := rfl
@[simp] theorem writePayload_func (a : Nat) (bs : List Byte) : (writePayload a bs s).func = s.func := rfl
@[simp] theorem writePayload_exc (a : Nat) (bs : List Byte) : (writePayload a bs s).exc = s.exc := rfl
@[simp] theorem writePayload_paylen (a : Nat) (bs : List Byte) : (writePayload a bs s).paylen = s.paylen := rfl
@[simp] theorem writePayload_fcrc (a : Nat) (bs : List Byte) : (writePayload a bs s).fcrc = s.fcrc := rfl
@[simp] theorem writePayload_payload (a : Nat) (bs : List Byte) : (writePayload a bs s).payload = memSetBytes s.payload a bs := rfl
@[simp] theorem writePayload_crcout (a : Nat) (bs : List Byte) : (writePayload a bs s).crcout = s.crcout := rfl
@[simp] theorem writePayload_len (a : Nat) (bs : List Byte) : (writePayload a bs s).len = s.len := rfl
@[simp] theorem writePayload_err (a : Nat) (bs : List Byte) : (writePayload a bs s).err = s.err := rfl
@[simp] theorem writePayload_matched (a : Nat) (bs : List Byte) : (writePayload a bs s).matched = s.matched := rfl
@[simp] theorem writePayload_errstk (a : Nat) (bs : List Byte) : (writePayload a bs s).errstk = s.errstk := rfl
@[simp] theorem writePayload_wire (a : Nat) (bs : List Byte) : (writePayload a bs s).wire = s.wire := rfl
@[simp] theorem writePayload_epoch (a : Nat) (bs : List Byte) : (writePayload a bs s).epoch = s.epoch := rfl
@[simp] theorem writePayload_events (a : Nat) (bs : List Byte) : (writePayload a bs s).events = s.events := rfl
@[simp] theorem writePayload_replies (a : Nat) (bs : List Byte) : (writePayload a bs s).replies = s.replies := rfl

@[simp] theorem writeWire_cfg (a : Nat) (bs : List Byte) : (writeWire a bs s).cfg = s.cfg := rfl
@[simp] theorem writeWire_station (a : Nat) (bs : List Byte) : (writeWire a bs s).station = s.station := rfl
@[simp] theorem writeWire_func (a : Nat) (bs : List Byte) : (writeWire a bs s).func = s.func := rfl
@[simp] theorem writeWire_exc (a : Nat) (bs : List Byte) : (writeWire a bs s).exc = s.exc := rfl
@[simp] theorem writeWire_paylen (a : Nat) (bs : List Byte) : (writeWire a bs s).paylen = s.paylen := rfl
@[simp] theorem writeWire_fcrc (a : Nat) (bs : List Byte) : (writeWire a bs s).fcrc = s.fcrc := rfl
@[simp] theorem writeWire_payload (a : Nat) (bs : List Byte) : (writeWire a bs s).payload = s.payload := rfl
@[simp] theorem writeWire_crcout (a : Nat) (bs : List Byte) : (writeWire a bs s).crcout = s.crcout := rfl
@[simp] theorem writeWire_len (a : Nat) (bs : List Byte) : (writeWire a bs s).len = s.len := rfl
@[simp] theorem writeWire_err (a : Nat) (bs : List Byte) : (writeWire a bs s).err = s.err := rfl
@[simp] theorem writeWire_matched (a : Nat) (bs : List Byte) : (writeWire a bs s).matched = s.matched := rfl
@[simp] theorem writeWire_errstk (a : Nat) (bs : List Byte) : (writeWire a bs s).errstk = s.errstk := rfl
@[simp] theorem writeWire_wire (a : Nat) (bs : List Byte) : (writeWire a bs s).wire = memSetBytes s.wire a bs := rfl
@[simp] theorem writeWire_epoch (a : Nat) (bs : List Byte) : (writeWire a bs s).epoch = s.epoch := rfl
@[simp] theorem writeWire_events (a : Nat) (bs : List Byte) : (writeWire a bs s).events = s.events := rfl
@[simp] theorem writeWire_replies (a : Nat) (bs : List Byte) : (writeWire a bs s).replies = s.replies := rfl

@[simp] theorem setCrcout_cfg (v : Word16) : (setCrcout v s).cfg = s.cfg := rfl
@[simp] theorem setCrcout_station (v : Word16) : (setCrcout v s).station = s.station := rfl
@[simp] theorem setCrcout_func (v : Word16) : (setCrcout v s).func = s.func := rfl
@[simp] theorem setCrcout_exc (v : Word16) : (setCrcout v s).exc = s.exc := rfl
@[simp] theorem setCrcout_paylen (v : Word16) : (setCrcout v s).paylen = s.paylen := rfl
@[simp] theorem setCrcout_fcrc (v : Word16) : (setCrcout v s).fcrc = s.fcrc := rfl
@[simp] theorem setCrcout_payload (v : Word16) : (setCrcout v s).payload = s.payload := rfl
@[simp] theorem setCrcout_crcout (v : Word16) : (setCrcout v s).crcout = v := rfl
@[simp] theorem setCrcout_len (v : Word16) : (setCrcout v s).len = s.len := rfl
@[simp] theorem setCrcout_err (v : Word16) : (setCrcout v s).err = s.err := rfl
@[simp] theorem setCrcout_matched (v : Word16) : (setCrcout v s).matched = s.matched := rfl
@[simp] theorem setCrcout_errstk (v : Word16) : (setCrcout v s).errstk = s.errstk := rfl
@[simp] theorem setCrcout_wire (v : Word16) : (setCrcout v s).wire = s.wire := rfl
@[simp] theorem setCrcout_epoch (v : Word16) : (setCrcout v s).epoch = s.epoch := rfl
@[simp] theorem setCrcout_events (v : Word16) : (setCrcout v s).events = s.events := rfl
@[simp] theorem setCrcout_replies (v : Word16) : (setCrcout v s).replies = s.replies := rfl

@[simp] theorem setLen_cfg (v : BitVec 12) : (setLen v s).cfg = s.cfg := rfl
@[simp] theorem setLen_station (v : BitVec 12) : (setLen v s).station = s.station := rfl
@[simp] theorem setLen_func (v : BitVec 12) : (setLen v s).func = s.func := rfl
@[simp] theorem setLen_exc (v : BitVec 12) : (setLen v s).exc = s.exc := rfl
@[simp] theorem setLen_paylen (v : BitVec 12) : (setLen v s).paylen = s.paylen := rfl
@[simp] theorem setLen_fcrc (v : BitVec 12) : (setLen v s).fcrc = s.fcrc := rfl
@[simp] theorem setLen_payload (v : BitVec 12) : (setLen v s).payload = s.payload := rfl
@[simp] theorem setLen_crcout (v : BitVec 12) : (setLen v s).crcout = s.crcout := rfl
@[simp] theorem setLen_len (v : BitVec 12) : (setLen v s).len = v := rfl
@[simp] theorem setLen_err (v : BitVec 12) : (setLen v s).err = s.err := rfl
@[simp] theorem setLen_matched (v : BitVec 12) : (setLen v s).matched = s.matched := rfl
@[simp] theorem setLen_errstk (v : BitVec 12) : (setLen v s).errstk = s.errstk := rfl
@[simp] theorem setLen_wire (v : BitVec 12) : (setLen v s).wire = s.wire := rfl
@[simp] theorem setLen_epoch (v : BitVec 12) : (setLen v s).epoch = s.epoch := rfl
@[simp] theorem setLen_events (v : BitVec 12) : (setLen v s).events = s.events := rfl
@[simp] theorem setLen_replies (v : BitVec 12) : (setLen v s).replies = s.replies := rfl

@[simp] theorem setMatched_cfg (v : Bool) : (setMatched v s).cfg = s.cfg := rfl
@[simp] theorem setMatched_station (v : Bool) : (setMatched v s).station = s.station := rfl
@[simp] theorem setMatched_func (v : Bool) : (setMatched v s).func = s.func := rfl
@[simp] theorem setMatched_exc (v : Bool) : (setMatched v s).exc = s.exc := rfl
@[simp] theorem setMatched_paylen (v : Bool) : (setMatched v s).paylen = s.paylen := rfl
@[simp] theorem setMatched_fcrc (v : Bool) : (setMatched v s).fcrc = s.fcrc := rfl
@[simp] theorem setMatched_payload (v : Bool) : (setMatched v s).payload = s.payload := rfl
@[simp] theorem setMatched_crcout (v : Bool) : (setMatched v s).crcout = s.crcout := rfl
@[simp] theorem setMatched_len (v : Bool) : (setMatched v s).len = s.len := rfl
@[simp] theorem setMatched_err (v : Bool) : (setMatched v s).err = s.err := rfl
@[simp] theorem setMatched_matched (v : Bool) : (setMatched v s).matched = v := rfl
@[simp] theorem setMatched_errstk (v : Bool) : (setMatched v s).errstk = s.errstk := rfl
@[simp] theorem setMatched_wire (v : Bool) : (setMatched v s).wire = s.wire := rfl
@[simp] theorem setMatched_epoch (v : Bool) : (setMatched v s).epoch = s.epoch := rfl
@[simp] theorem setMatched_events (v : Bool) : (setMatched v s).events = s.events := rfl
@[simp] theorem setMatched_replies (v : Bool) : (setMatched v s).replies = s.replies := rfl

@[simp] theorem clearSticky_cfg : (clearSticky s).cfg = s.cfg := rfl
@[simp] theorem clearSticky_station : (clearSticky s).station = s.station := rfl
@[simp] theorem clearSticky_func : (clearSticky s).func = s.func := rfl
@[simp] theorem clearSticky_exc : (clearSticky s).exc = s.exc := rfl
@[simp] theorem clearSticky_paylen : (clearSticky s).paylen = s.paylen := rfl
@[simp] theorem clearSticky_fcrc : (clearSticky s).fcrc = s.fcrc := rfl
@[simp] theorem clearSticky_payload : (clearSticky s).payload = s.payload := rfl
@[simp] theorem clearSticky_crcout : (clearSticky s).crcout = s.crcout := rfl
@[simp] theorem clearSticky_len : (clearSticky s).len = s.len := rfl
@[simp] theorem clearSticky_err : (clearSticky s).err = s.err := rfl
@[simp] theorem clearSticky_matched : (clearSticky s).matched = s.matched := rfl
@[simp] theorem clearSticky_errstk : (clearSticky s).errstk = false := rfl
@[simp] theorem clearSticky_wire : (clearSticky s).wire = s.wire := rfl
@[simp] theorem clearSticky_epoch : (clearSticky s).epoch = s.epoch := rfl
@[simp] theorem clearSticky_events : (clearSticky s).events = s.events := rfl
@[simp] theorem clearSticky_replies : (clearSticky s).replies = s.replies := rfl

@[simp] theorem setEvents_cfg (es : List HostEvent) : (setEvents es s).cfg = s.cfg := rfl
@[simp] theorem setEvents_station (es : List HostEvent) : (setEvents es s).station = s.station := rfl
@[simp] theorem setEvents_func (es : List HostEvent) : (setEvents es s).func = s.func := rfl
@[simp] theorem setEvents_exc (es : List HostEvent) : (setEvents es s).exc = s.exc := rfl
@[simp] theorem setEvents_paylen (es : List HostEvent) : (setEvents es s).paylen = s.paylen := rfl
@[simp] theorem setEvents_fcrc (es : List HostEvent) : (setEvents es s).fcrc = s.fcrc := rfl
@[simp] theorem setEvents_payload (es : List HostEvent) : (setEvents es s).payload = s.payload := rfl
@[simp] theorem setEvents_crcout (es : List HostEvent) : (setEvents es s).crcout = s.crcout := rfl
@[simp] theorem setEvents_len (es : List HostEvent) : (setEvents es s).len = s.len := rfl
@[simp] theorem setEvents_err (es : List HostEvent) : (setEvents es s).err = s.err := rfl
@[simp] theorem setEvents_matched (es : List HostEvent) : (setEvents es s).matched = s.matched := rfl
@[simp] theorem setEvents_errstk (es : List HostEvent) : (setEvents es s).errstk = s.errstk := rfl
@[simp] theorem setEvents_wire (es : List HostEvent) : (setEvents es s).wire = s.wire := rfl
@[simp] theorem setEvents_epoch (es : List HostEvent) : (setEvents es s).epoch = s.epoch := rfl
@[simp] theorem setEvents_events (es : List HostEvent) : (setEvents es s).events = es := rfl
@[simp] theorem setEvents_replies (es : List HostEvent) : (setEvents es s).replies = s.replies := rfl

@[simp] theorem reply_cfg (v : Word32) : (reply v s).cfg = s.cfg := rfl
@[simp] theorem reply_station (v : Word32) : (reply v s).station = s.station := rfl
@[simp] theorem reply_func (v : Word32) : (reply v s).func = s.func := rfl
@[simp] theorem reply_exc (v : Word32) : (reply v s).exc = s.exc := rfl
@[simp] theorem reply_paylen (v : Word32) : (reply v s).paylen = s.paylen := rfl
@[simp] theorem reply_fcrc (v : Word32) : (reply v s).fcrc = s.fcrc := rfl
@[simp] theorem reply_payload (v : Word32) : (reply v s).payload = s.payload := rfl
@[simp] theorem reply_crcout (v : Word32) : (reply v s).crcout = s.crcout := rfl
@[simp] theorem reply_len (v : Word32) : (reply v s).len = s.len := rfl
@[simp] theorem reply_err (v : Word32) : (reply v s).err = s.err := rfl
@[simp] theorem reply_matched (v : Word32) : (reply v s).matched = s.matched := rfl
@[simp] theorem reply_errstk (v : Word32) : (reply v s).errstk = s.errstk := rfl
@[simp] theorem reply_wire (v : Word32) : (reply v s).wire = s.wire := rfl
@[simp] theorem reply_epoch (v : Word32) : (reply v s).epoch = s.epoch := rfl
@[simp] theorem reply_events (v : Word32) : (reply v s).events = s.events := rfl
@[simp] theorem reply_replies (v : Word32) : (reply v s).replies = s.replies ++ [v] := rfl

@[simp] theorem succeed_cfg : (succeed s).cfg = s.cfg := rfl
@[simp] theorem succeed_station : (succeed s).station = s.station := rfl
@[simp] theorem succeed_func : (succeed s).func = s.func := rfl
@[simp] theorem succeed_exc : (succeed s).exc = s.exc := rfl
@[simp] theorem succeed_paylen : (succeed s).paylen = s.paylen := rfl
@[simp] theorem succeed_fcrc : (succeed s).fcrc = s.fcrc := rfl
@[simp] theorem succeed_payload : (succeed s).payload = s.payload := rfl
@[simp] theorem succeed_crcout : (succeed s).crcout = s.crcout := rfl
@[simp] theorem succeed_len : (succeed s).len = s.len := rfl
@[simp] theorem succeed_err : (succeed s).err = 0#4 := rfl
@[simp] theorem succeed_matched : (succeed s).matched = s.matched := rfl
@[simp] theorem succeed_errstk : (succeed s).errstk = s.errstk := rfl
@[simp] theorem succeed_wire : (succeed s).wire = s.wire := rfl
@[simp] theorem succeed_epoch : (succeed s).epoch = s.epoch := rfl
@[simp] theorem succeed_events : (succeed s).events = s.events := rfl
@[simp] theorem succeed_replies : (succeed s).replies = s.replies := rfl

@[simp] theorem raiseError_cfg (e : CmdError) : (raiseError e s).cfg = s.cfg := rfl
@[simp] theorem raiseError_station (e : CmdError) : (raiseError e s).station = s.station := rfl
@[simp] theorem raiseError_func (e : CmdError) : (raiseError e s).func = s.func := rfl
@[simp] theorem raiseError_exc (e : CmdError) : (raiseError e s).exc = s.exc := rfl
@[simp] theorem raiseError_paylen (e : CmdError) : (raiseError e s).paylen = s.paylen := rfl
@[simp] theorem raiseError_fcrc (e : CmdError) : (raiseError e s).fcrc = s.fcrc := rfl
@[simp] theorem raiseError_payload (e : CmdError) : (raiseError e s).payload = s.payload := rfl
@[simp] theorem raiseError_crcout (e : CmdError) : (raiseError e s).crcout = s.crcout := rfl
@[simp] theorem raiseError_len (e : CmdError) : (raiseError e s).len = s.len := rfl
@[simp] theorem raiseError_err (e : CmdError) : (raiseError e s).err = errorCode e := rfl
@[simp] theorem raiseError_matched (e : CmdError) : (raiseError e s).matched = s.matched := rfl
@[simp] theorem raiseError_errstk (e : CmdError) : (raiseError e s).errstk = true := rfl
@[simp] theorem raiseError_wire (e : CmdError) : (raiseError e s).wire = s.wire := rfl
@[simp] theorem raiseError_epoch (e : CmdError) : (raiseError e s).epoch = s.epoch := rfl
@[simp] theorem raiseError_events (e : CmdError) : (raiseError e s).events = s.events := rfl
@[simp] theorem raiseError_replies (e : CmdError) : (raiseError e s).replies = s.replies := rfl

@[simp] theorem applyReset_cfg : (applyReset s).cfg = s.cfg := rfl
@[simp] theorem applyReset_station : (applyReset s).station = 0x00#8 := rfl
@[simp] theorem applyReset_func : (applyReset s).func = 0x00#7 := rfl
@[simp] theorem applyReset_exc : (applyReset s).exc = 0#1 := rfl
@[simp] theorem applyReset_paylen : (applyReset s).paylen = 0#12 := rfl
@[simp] theorem applyReset_fcrc : (applyReset s).fcrc = 0x0000#16 := rfl
@[simp] theorem applyReset_payload : (applyReset s).payload = [] := rfl
@[simp] theorem applyReset_crcout : (applyReset s).crcout = 0xFFFF#16 := rfl
@[simp] theorem applyReset_len : (applyReset s).len = 0#12 := rfl
@[simp] theorem applyReset_err : (applyReset s).err = 0#4 := rfl
@[simp] theorem applyReset_matched : (applyReset s).matched = false := rfl
@[simp] theorem applyReset_errstk : (applyReset s).errstk = false := rfl
@[simp] theorem applyReset_wire : (applyReset s).wire = [] := rfl
@[simp] theorem applyReset_epoch : (applyReset s).epoch = s.epoch + 1 := rfl
@[simp] theorem applyReset_events : (applyReset s).events = s.events := rfl
@[simp] theorem applyReset_replies : (applyReset s).replies = s.replies := rfl

end Sys2Proof.Machine
end

