-- ==== Sys2Proof/Laws/Operands.lean ====
section
/-! SUPPORT. What reading a byte or a range gives after each update of the state, and the sizes of the operand forms. -/

namespace Sys2Proof.Machine

/-! A byte of WIRE depends on WIRE and the epoch alone, a byte of PAYLOAD on PAYLOAD and the epoch alone. -/

theorem wireByte_congr {s t : State} (hw : t.wire = s.wire) (he : t.epoch = s.epoch) (a : Nat) :
    wireByte t a = wireByte s a := by simp [wireByte, hw, he]

theorem payloadByte_congr {s t : State} (hp : t.payload = s.payload) (he : t.epoch = s.epoch)
    (a : Nat) : payloadByte t a = payloadByte s a := by simp [payloadByte, hp, he]

theorem wireBytes_congr {s t : State} (hw : t.wire = s.wire) (he : t.epoch = s.epoch)
    (off cnt : Nat) : wireBytes t off cnt = wireBytes s off cnt := by
  simp [wireBytes, wireByte_congr hw he]

theorem payloadBytes_congr {s t : State} (hp : t.payload = s.payload) (he : t.epoch = s.epoch)
    (n : Nat) : payloadBytes t n = payloadBytes s n := by
  simp only [payloadBytes]
  exact List.map_congr_left fun a _ => payloadByte_congr hp he a

/-! Writing a run of bytes. -/

/-- A byte inside the run just written. -/
theorem wireByte_writeWire_in (s : State) (a : Nat) {bs : List Byte} {k : Nat} (h : k < bs.length) :
    wireByte (writeWire a bs s) (a + k) = bs[k] := by
  have : a ≤ a + k ∧ a + k < a + bs.length := by omega
  simp [wireByte, memGet_memSetBytes, h]

/-- A byte outside the run just written. -/
theorem wireByte_writeWire_out (s : State) {a c : Nat} {bs : List Byte}
    (h : c < a ∨ a + bs.length ≤ c) : wireByte (writeWire a bs s) c = wireByte s c := by
  have : ¬ (a ≤ c ∧ c < a + bs.length) := by omega
  simp [wireByte, memGet_memSetBytes, this]

theorem payloadByte_writePayload_in (s : State) (a : Nat) {bs : List Byte} {k : Nat}
    (h : k < bs.length) : payloadByte (writePayload a bs s) (a + k) = bs[k] := by
  have : a ≤ a + k ∧ a + k < a + bs.length := by omega
  simp [payloadByte, memGet_memSetBytes, h]

theorem payloadByte_writePayload_out (s : State) {a c : Nat} {bs : List Byte}
    (h : c < a ∨ a + bs.length ≤ c) : payloadByte (writePayload a bs s) c = payloadByte s c := by
  have : ¬ (a ≤ c ∧ c < a + bs.length) := by omega
  simp [payloadByte, memGet_memSetBytes, this]

/-! Sizes and elements. -/

@[simp] theorem wireBytes_length (s : State) (off cnt : Nat) : (wireBytes s off cnt).length = cnt := by
  simp [wireBytes]

@[simp] theorem payloadBytes_length (s : State) (n : Nat) : (payloadBytes s n).length = n := by
  simp [payloadBytes]

@[simp] theorem wireBytes_getElem (s : State) (off cnt k : Nat) (h : k < (wireBytes s off cnt).length) :
    (wireBytes s off cnt)[k] = wireByte s (off + k) := by simp [wireBytes]

@[simp] theorem payloadBytes_getElem (s : State) (n k : Nat) (h : k < (payloadBytes s n).length) :
    (payloadBytes s n)[k] = payloadByte s k := by simp [payloadBytes]

@[simp] theorem frameBody_length (s : State) : (frameBody s).length = s.paylen.toNat + 2 := by
  simp [frameBody]

@[simp] theorem crcBytes_length (c : Word16) : (crcBytes c).length = 2 := rfl

/-- A range of WIRE in two parts. -/
theorem wireBytes_append (s : State) (off m n : Nat) :
    wireBytes s off (m + n) = wireBytes s off m ++ wireBytes s (off + m) n := by
  simp [wireBytes, List.range_add, Function.comp_def, Nat.add_assoc]

theorem rangeFits_iff (s : State) (off cnt : Nat) :
    rangeFits s off cnt = true ↔ off + cnt ≤ s.cfg.bufSize := by simp [rangeFits]

theorem tooShort_iff (cnt : Nat) : tooShort cnt = true ↔ cnt < 4 := by
  unfold tooShort noDataLength
  exact decide_eq_true_iff

end Sys2Proof.Machine
end

