-- ==== Sys2Proof/Laws/Commands.lean ====
section
/-! SUPPORT. Everything a command can do, said once per meaning: the state it answers with, case by case. The proofs about a command cite these instead of unfolding it. -/

namespace Sys2Proof.Machine

variable {off cnt : Nat} {code : Byte} {s t : State}

/-- All that `CRC16` can do. -/
theorem execCrc16_cases (h : execCrc16 off cnt s = .next t) :
    (off + cnt ≤ s.cfg.bufSize ∧ t = succeed (setCrcout (crc16 (wireBytes s off cnt)) s)) ∨
    (s.cfg.bufSize < off + cnt ∧ t = raiseError .range s) := by
  unfold execCrc16 at h
  split at h
  · next hr => exact .inl ⟨(rangeFits_iff ..).1 hr, by simpa using h.symm⟩
  · next hr => exact .inr ⟨by simpa [rangeFits_iff] using hr, by simpa using h.symm⟩

/-- All that `PARSE` can do. -/
theorem execParse_cases (h : execParse off cnt s = .next t) :
    (cnt < 4 ∧ t = raiseError .short s) ∨
    (4 ≤ cnt ∧ off + cnt ≤ s.cfg.bufSize ∧ t = succeed (loadFrame off cnt s)) ∨
    (4 ≤ cnt ∧ s.cfg.bufSize < off + cnt ∧ t = raiseError .range s) := by
  unfold execParse at h
  split at h
  · next hs => exact .inl ⟨(tooShort_iff _).1 hs, by simpa using h.symm⟩
  · next hs =>
    have h4 : 4 ≤ cnt := by simpa [tooShort_iff] using hs
    split at h
    · next hr => exact .inr (.inl ⟨h4, (rangeFits_iff ..).1 hr, by simpa using h.symm⟩)
    · next hr => exact .inr (.inr ⟨h4, by simpa [rangeFits_iff] using hr, by simpa using h.symm⟩)

/-- All that `SERIALIZE` can do. -/
theorem execSerialize_cases (h : execSerialize off s = .next t) :
    (off + s.paylen.toNat + 4 ≤ s.cfg.bufSize ∧ t = succeed (storeFrame off s)) ∨
    (s.cfg.bufSize < off + s.paylen.toNat + 4 ∧ t = raiseError .range s) := by
  unfold execSerialize at h
  split at h
  · next hr =>
    have := (rangeFits_iff ..).1 hr
    exact .inl ⟨by omega, by simpa using h.symm⟩
  · next hr =>
    have : s.cfg.bufSize < off + (s.paylen.toNat + 4) := by simpa [rangeFits_iff] using hr
    exact .inr ⟨by omega, by simpa using h.symm⟩

/-- All that `SETEXC` can do. -/
theorem execSetexc_cases (h : execSetexc code s = .next t) :
    t = succeed (setPaylen 1#12 (writePayload 0 [code] (setExc 1#1 s))) := by
  simpa [execSetexc] using h.symm

/-- All that `CHECK` can do. -/
theorem execCheck_cases (h : execCheck off cnt s = .next t) :
    (cnt < 4 ∧ t = failCheck .short s) ∨
    (4 ≤ cnt ∧ off + cnt ≤ s.cfg.bufSize ∧
      t = succeed (compareCrc (crc16 (wireBytes s off (cnt - 2))) (receivedCrc s off cnt)
        (setCrcout (crc16 (wireBytes s off (cnt - 2))) s))) ∨
    (4 ≤ cnt ∧ s.cfg.bufSize < off + cnt ∧ t = failCheck .range s) := by
  unfold execCheck at h
  split at h
  · next hs => exact .inl ⟨(tooShort_iff _).1 hs, by simpa using h.symm⟩
  · next hs =>
    have h4 : 4 ≤ cnt := by simpa [tooShort_iff] using hs
    split at h
    · next hr => exact .inr (.inl ⟨h4, (rangeFits_iff ..).1 hr, by simpa using h.symm⟩)
    · next hr => exact .inr (.inr ⟨h4, by simpa [rangeFits_iff] using hr, by simpa using h.symm⟩)

/-- The instance, the epoch and the host's two lists are out of every command's reach (R92). -/
theorem exec_keeps_environment {i : Instr} (h : exec i s = .next t) :
    t.cfg = s.cfg ∧ t.epoch = s.epoch ∧ t.events = s.events ∧ t.replies = s.replies := by
  cases i with
  | crc16 off cnt => rcases execCrc16_cases h with ⟨_, rfl⟩ | ⟨_, rfl⟩ <;> simp
  | parse off cnt =>
    rcases execParse_cases h with ⟨_, rfl⟩ | ⟨_, _, rfl⟩ | ⟨_, _, rfl⟩ <;> simp [loadFrame]
  | serialize off =>
    rcases execSerialize_cases h with ⟨_, rfl⟩ | ⟨_, rfl⟩ <;> simp [storeFrame]
  | setexc code => cases execSetexc_cases h; simp
  | check off cnt =>
    rcases execCheck_cases h with ⟨_, rfl⟩ | ⟨_, _, rfl⟩ | ⟨_, _, rfl⟩ <;>
      simp [failCheck, compareCrc]

end Sys2Proof.Machine
end

