-- ==== Sys2Proof/Laws/Crc.lean ====
section
/-! SUPPORT. The small lemmas of the CRC unit: the empty sequence, one byte more, a concatenation. -/

namespace Sys2Proof.Machine

@[simp] theorem bitsteps_zero (c : Word16) : bitsteps 0 c = c := rfl

@[simp] theorem bitsteps_succ (n : Nat) (c : Word16) : bitsteps (n + 1) c = bitsteps n (bitstep c) := rfl

/-- R107 (a). -/
@[simp] theorem crc16_nil : crc16 [] = 0xFFFF#16 := rfl

/-- The CRC of a concatenation continues from the CRC of its first part (R107 (b)). -/
theorem crc16_append (xs ys : List Byte) : crc16 (xs ++ ys) = ys.foldl crcUpdate (crc16 xs) := by
  simp [crc16, List.foldl_append]

/-- R107 (b), one byte. -/
theorem crc16_concat (xs : List Byte) (d : Byte) : crc16 (xs ++ [d]) = crcUpdate (crc16 xs) d := by
  simp [crc16_append]

end Sys2Proof.Machine
end

