-- ==== Sys2Proof/Laws/Encoding.lean ====
section
/-! SUPPORT. The command word as a number, and its three fields read back. -/

namespace Sys2Proof

/-- A command word as a number: its fields at their places (R80). -/
theorem commandWord_toNat (op : BitVec 8) (b a : BitVec 12) :
    (commandWord op b a).toNat = op.toNat * 2 ^ 24 + b.toNat * 2 ^ 12 + a.toNat := by
  simp only [commandWord, BitVec.toNat_append]
  rw [← Nat.shiftLeft_add_eq_or_of_lt a.isLt, ← Nat.shiftLeft_add_eq_or_of_lt b.isLt]
  simp only [Nat.shiftLeft_eq]; ring

/-- Each field of a word put together is the field put in. -/
@[simp] theorem opField_commandWord (op : BitVec 8) (b a : BitVec 12) : opField (commandWord op b a) = op := by
  apply BitVec.eq_of_toNat_eq
  have := a.isLt; have := b.isLt; have := op.isLt
  simp only [opField, BitVec.extractLsb'_toNat, commandWord_toNat, Nat.shiftRight_eq_div_pow]
  omega

@[simp] theorem bField_commandWord (op : BitVec 8) (b a : BitVec 12) : bField (commandWord op b a) = b := by
  apply BitVec.eq_of_toNat_eq
  have := a.isLt; have := b.isLt; have := op.isLt
  simp only [bField, BitVec.extractLsb'_toNat, commandWord_toNat, Nat.shiftRight_eq_div_pow]
  omega

@[simp] theorem aField_commandWord (op : BitVec 8) (b a : BitVec 12) : aField (commandWord op b a) = a := by
  apply BitVec.eq_of_toNat_eq
  have := a.isLt; have := b.isLt; have := op.isLt
  simp only [aField, BitVec.extractLsb'_toNat, commandWord_toNat, Nat.shiftRight_eq_div_pow]
  omega

end Sys2Proof
end

