-- ==== Sys2Proof/Laws/HostPort.lean ====
section
/-! SUPPORT. Everything a host access and a step can do, said once. -/

namespace Sys2Proof.Machine

variable {s t : State}

/-- All that a command word can do: its command runs, or `ERR_ILLEGAL` is raised. -/
theorem runCommand_cases {w : Word32} (h : runCommand w s = .next t) :
    (∃ i, decode w = .command i ∧ exec i s = .next t) ∨
    (∃ e, decode w = .illegal e ∧ t = raiseError .illegal s) := by
  unfold runCommand at h
  split at h
  · next i hi => exact .inl ⟨i, hi, h⟩
  · next e he => exact .inr ⟨e, he, by simpa using h.symm⟩

/-- All that an access can do when it is not refused: it is an aligned 32-bit access to a word of the map, and a read or a write of it. -/
theorem hostAccess_cases {a : HostAccess} (h : hostAccess a s = .next t) :
    a.width = 32 ∧ a.offset % 4 = 0 ∧ ∃ tgt, mapTarget s.cfg a.offset = some tgt ∧
      ((a.op = .read ∧ t = reply (readTarget s tgt) s) ∨
       (∃ v, a.op = .write v ∧ writeTarget v s tgt = .next t)) := by
  unfold hostAccess at h
  split at h
  · simp at h
  · next hw =>
    split at h
    · simp at h
    · next ho =>
      split at h
      · simp at h
      · next tgt htgt =>
        refine ⟨by simpa using hw, by simpa using ho, tgt, htgt, ?_⟩
        split at h
        · next hop => exact .inl ⟨hop, by simpa using h.symm⟩
        · next v hop => exact .inr ⟨v, hop, h⟩

/-- All that a write of a word of the map can do. -/
theorem writeTarget_cases {v : Word32} {tgt : Target} (h : writeTarget v s tgt = .next t) :
    (tgt = .cmd ∧ runCommand v s = .next t) ∨ (tgt = .status ∧ t = writeStatus v s) ∨
    (tgt = .station ∧ t = setStation (v.extractLsb' 0 8) s) ∨
    (tgt = .func ∧ t = setFunc (v.extractLsb' 0 7) s) ∨
    (tgt = .exc ∧ t = setExc (v.extractLsb' 0 1) s) ∨
    (tgt = .paylen ∧ t = setPaylen (v.extractLsb' 0 12) s) ∨
    (tgt = .fcrc ∧ t = setFcrc (v.extractLsb' 0 16) s) ∨
    (∃ i, tgt = .wire i ∧ t = writeWire i [v.extractLsb' 0 8] s) ∨
    (∃ i, tgt = .payload i ∧ t = writePayload i [v.extractLsb' 0 8] s) := by
  cases tgt <;> simp [writeTarget] at h ⊢ <;> first | exact h | exact h.symm

/-- All that a step can do: wait, take the reset, or take an access. -/
theorem step_cases (h : step s = .next t) :
    (s.events = [] ∧ t = s) ∨
    (∃ rest, s.events = .reset :: rest ∧ t = applyReset (setEvents rest s)) ∨
    (∃ a rest, s.events = .access a :: rest ∧ hostAccess a (setEvents rest s) = .next t) := by
  unfold step at h
  split at h
  · next he => exact .inl ⟨he, by simpa using h.symm⟩
  · next e rest he =>
    cases e with
    | reset => exact .inr (.inl ⟨rest, he, by simpa [takeEvent] using h.symm⟩)
    | access a => exact .inr (.inr ⟨a, rest, he, by simpa [takeEvent] using h⟩)

/-- A word of the map lies at its own offset. -/
theorem mapTarget_wire (cfg : Config) {i : Nat} (h : i < cfg.bufSize) :
    mapTarget cfg (targetOffset (.wire i)) = some (.wire i) := by
  have := cfg.bufSize_le
  rw [mapTarget, show targetOffset (.wire i) = 0x4000 + 4 * i from rfl, if_neg (by omega),
    if_pos (by omega)]
  have e : (0x4000 + 4 * i - 0x4000) / 4 = i := by omega
  rw [e, if_pos h]

theorem mapTarget_payload (cfg : Config) {i : Nat} (h : i < cfg.paySize) :
    mapTarget cfg (targetOffset (.payload i)) = some (.payload i) := by
  have := cfg.bufSize_le
  have : cfg.paySize ≤ cfg.bufSize := Nat.sub_le _ _
  rw [mapTarget, show targetOffset (.payload i) = 0x8000 + 4 * i from rfl, if_neg (by omega),
    if_neg (by omega), if_pos (by omega)]
  have e : (0x8000 + 4 * i - 0x8000) / 4 = i := by omega
  rw [e, if_pos h]

/-- Every row of the register map lies below the WIRE window, and no two rows share an offset, so that looking up its offset finds the row (R58). -/
theorem registerMap_row :
    ∀ row ∈ registerMap, row.1 < 0x4000 ∧ registerMap.lookup row.1 = some row.2 := by decide

/-- The ten named registers lie at their offsets in every instance. -/
theorem mapTarget_register (cfg : Config) {off : Nat} {tgt : Target}
    (h : (off, tgt) ∈ registerMap) : mapTarget cfg off = some tgt := by
  obtain ⟨hlt, hrow⟩ := registerMap_row _ h
  rw [mapTarget, if_pos hlt, hrow]

/-- A mapped word of WIRE is one the instance has, and so is one of PAYLOAD. -/
theorem mapTarget_bound {cfg : Config} {off : Nat} {tgt : Target} (h : mapTarget cfg off = some tgt) :
    (∀ i, tgt = .wire i → i < cfg.bufSize) ∧ (∀ i, tgt = .payload i → i < cfg.paySize) := by
  unfold mapTarget at h
  split at h
  · have hm : ∀ l : List (Nat × Target), List.lookup off l = some tgt → ∃ o, (o, tgt) ∈ l := by
      intro l
      induction l with
      | nil => simp
      | cons x l ih =>
        obtain ⟨b, u⟩ := x
        intro hl
        rw [List.lookup_cons] at hl
        split at hl
        · exact ⟨b, by simp at hl; simp [hl]⟩
        · obtain ⟨o, ho⟩ := ih hl
          exact ⟨o, List.mem_cons_of_mem _ ho⟩
    obtain ⟨o, ho⟩ := hm _ h
    constructor <;> rintro i rfl <;> simp [registerMap] at ho
  · split at h
    · split at h
      · obtain rfl := by simpa using h
        constructor <;> rintro i hi <;> cases hi
        assumption
      · simp at h
    · split at h
      · split at h
        · obtain rfl := by simpa using h
          constructor <;> rintro i hi <;> cases hi
          assumption
        · simp at h
      · simp at h

end Sys2Proof.Machine
end

