-- ==== Sys2Proof/Laws/PerInstr.lean ====
section
/-! SUPPORT. The statements made per instruction: the word of a command selects the row of the opcode map (30_encoding.md R85) that has the command's mnemonic. -/

namespace Sys2Proof

/-- Masked for its opcode alone, a command word shows its opcode and nothing else. -/
theorem commandWord_and_opMask (op : BitVec 8) (b a : BitVec 12) :
    commandWord op b a &&& 0xFF000000#32 = commandWord op 0#12 0#12 := by
  apply BitVec.eq_of_getLsbD_eq
  intro i hi
  simp only [commandWord, BitVec.getLsbD_and, BitVec.getLsbD_append, BitVec.getLsbD_zero]
  interval_cases i <;> simp

/-- With `b = 0`, masking the opcode and `b` leaves the opcode. -/
theorem commandWord_and_offMask (op : BitVec 8) (a : BitVec 12) :
    commandWord op 0#12 a &&& 0xFFFFF000#32 = commandWord op 0#12 0#12 := by
  apply BitVec.eq_of_getLsbD_eq
  intro i hi
  simp only [commandWord, BitVec.getLsbD_and, BitVec.getLsbD_append, BitVec.getLsbD_zero]
  interval_cases i <;> simp

/-- With a code below, masking all but the code leaves the opcode. -/
theorem commandWord_and_codeMask (op c : BitVec 8) :
    commandWord op 0#12 (c.setWidth 12) &&& 0xFFFFFF00#32 = commandWord op 0#12 0#12 := by
  apply BitVec.eq_of_getLsbD_eq
  intro i hi
  simp only [commandWord, BitVec.getLsbD_and, BitVec.getLsbD_append, BitVec.getLsbD_zero, BitVec.getLsbD_setWidth]
  interval_cases i <;> simp

/-- The command's word matches the row of its mnemonic. -/
def Laws.OpcodeRow.Statement (i : Instr) : Prop :=
  ∃ r ∈ opcodeRows, r.mnemonic = mnemonicOf i ∧ rowMatches r (encode i) = true

theorem Laws.OpcodeRow.crc16 (off cnt : Nat) : Laws.OpcodeRow.Statement (.crc16 off cnt) := by
  refine ⟨⟨"CRC16", 0x01000000#32, 0xFF000000#32⟩, by simp [opcodeRows], rfl, ?_⟩
  rw [rowMatches, encode, commandWord_and_opMask]; decide

theorem Laws.OpcodeRow.parse (off cnt : Nat) : Laws.OpcodeRow.Statement (.parse off cnt) := by
  refine ⟨⟨"PARSE", 0x02000000#32, 0xFF000000#32⟩, by simp [opcodeRows], rfl, ?_⟩
  rw [rowMatches, encode, commandWord_and_opMask]; decide

theorem Laws.OpcodeRow.serialize (off : Nat) : Laws.OpcodeRow.Statement (.serialize off) := by
  refine ⟨⟨"SERIALIZE", 0x03000000#32, 0xFFFFF000#32⟩, by simp [opcodeRows], rfl, ?_⟩
  rw [rowMatches, encode, commandWord_and_offMask]; decide

theorem Laws.OpcodeRow.setexc (code : Byte) : Laws.OpcodeRow.Statement (.setexc code) := by
  refine ⟨⟨"SETEXC", 0x04000000#32, 0xFFFFFF00#32⟩, by simp [opcodeRows], rfl, ?_⟩
  rw [rowMatches, encode, commandWord_and_codeMask]; decide

theorem Laws.OpcodeRow.check (off cnt : Nat) : Laws.OpcodeRow.Statement (.check off cnt) := by
  refine ⟨⟨"CHECK", 0x05000000#32, 0xFF000000#32⟩, by simp [opcodeRows], rfl, ?_⟩
  rw [rowMatches, encode, commandWord_and_opMask]; decide

end Sys2Proof
end

