-- ==== Sys2Proof/Tests/Slice0.lean ====
section
/-! SUPPORT. The author's own tests. Expected values come from the spec: the vectors V1 to V96 of 95_test_vectors.md and the encodings of 30_encoding.md R85 and R90. The theorems `test_meets_…` show, for each statement with hypotheses, inputs that meet them, boundary values among them. -/

namespace Sys2Proof.Machine

/-! ## Helpers -/

/-- The outcome is a next state in which `P` holds. -/
def nextHolds (o : Host.Outcome State Fault Refusal) (P : State → Prop) [DecidablePred P] : Bool :=
  match o with
  | .next t => decide (P t)
  | .fault _ => false
  | .refused _ => false

theorem next_where {o : Host.Outcome State Fault Refusal} {P : State → Prop} [DecidablePred P]
    (h : nextHolds o P = true) : ∃ t, o = .next t ∧ P t := by
  cases o with
  | next t => exact ⟨t, rfl, of_decide_eq_true h⟩
  | fault _ => cases h
  | refused _ => cases h

/-- The default instance after reset, with bytes in WIRE from an index on. -/
def onWire (a : Nat) (bs : List Byte) : State := writeWire a bs State.reset

/-- The document's frame on the wire (V30, V60). -/
def docFrame : State := onWire 0 [0x01, 0x03, 0x00, 0x00, 0x00, 0x01, 0x84, 0x0A]

/-- The same with bit 0 of the CRC low byte inverted (V33, V61). -/
def badFrame : State := onWire 0 [0x01, 0x03, 0x00, 0x00, 0x00, 0x01, 0x85, 0x0A]

/-- A frame held in the frame registers (V40, V41, V46). -/
def holding (st : Byte) (f : BitVec 7) (e : BitVec 1) (pay : List Byte) : State :=
  setPaylen (BitVec.ofNat 12 pay.length)
    (writePayload 0 pay (setExc e (setFunc f (setStation st State.reset))))

/-- The document's frame held (V40). -/
def heldDoc : State := holding 0x01 0x03 0 [0x00, 0x00, 0x00, 0x01]

/-- The host's next access is a write. -/
def writing (off : Nat) (v : Word32) (s : State) : State :=
  setEvents [.access ⟨.write v, 32, off⟩] s

/-- The host's next access is a read. -/
def reading (off : Nat) (s : State) : State := setEvents [.access ⟨.read, 32, off⟩] s

/-! ## WellFormed: an ill-formed term for each check -/

theorem test_wf_crc16_off : wellFormed (.crc16 4096 0) = false := by decide
theorem test_wf_crc16_cnt : wellFormed (.crc16 0 4096) = false := by decide
theorem test_wf_parse_off : wellFormed (.parse 4096 4) = false := by decide
theorem test_wf_parse_cnt : wellFormed (.parse 0 4096) = false := by decide
theorem test_wf_serialize_off : wellFormed (.serialize 4096) = false := by decide
theorem test_wf_check_off : wellFormed (.check 4096 4) = false := by decide
theorem test_wf_check_cnt : wellFormed (.check 0 4096) = false := by decide
theorem test_wf_setexc : wellFormed (.setexc 0xFF#8) = true := by decide

/-! ## Decoding: words written out bit by bit from R85, opcode, then `b`, then `a` -/

theorem test_decode_crc16 :
    decode 0b00000001_000000001001_000001100100#32 = .command (.crc16 100 9) := by decide
theorem test_decode_parse :
    decode 0b00000010_000000001000_000000000011#32 = .command (.parse 3 8) := by decide
theorem test_decode_serialize :
    decode 0b00000011_000000000000_000001100100#32 = .command (.serialize 100) := by decide
theorem test_decode_setexc :
    decode 0b00000100_000000000000_000011111110#32 = .command (.setexc 0xFE#8) := by decide
theorem test_decode_check :
    decode 0b00000101_100000000000_000000000001#32 = .command (.check 1 2048) := by decide
theorem test_decode_serialize_b :
    decode 0b00000011_100000000000_000000000000#32 = .illegal (.nonzeroField 0x03#8) := by decide
theorem test_decode_setexc_a11 :
    decode 0b00000100_000000000000_100000000000#32 = .illegal (.nonzeroField 0x04#8) := by decide
theorem test_decode_undefined :
    decode 0b10000001_000000001001_000000000000#32 = .illegal (.undefinedOpcode 0x81#8) := by decide
/-- R90 gives the same words for the assembler's lines. -/
theorem test_encode :
    [Instr.crc16 0 9, .parse 0 4, .serialize 100, .setexc 7, .check 510 4].map encode =
      [0x01009000#32, 0x02004000#32, 0x03000064#32, 0x04000007#32, 0x050041FE#32] := by decide
theorem test_decodeTableWord : decodeTableWord 32 0x05008003 = some (.check 3 8) := by decide
theorem test_decodeTableWord_illegal : decodeTableWord 32 0x06000000 = none := by decide

/-! ## The CRC unit (V1 to V15, and the traces of 2.1) -/

theorem test_bitstep : [0x0000#16, 0x0001, 0x0002, 0x8000, 0xFFFF, 0xA001].map bitstep =
    [0x0000#16, 0xA001, 0x0001, 0x4000, 0xDFFE, 0xF001] := by decide
theorem test_crcUpdate :
    [crcUpdate 0x1234 0x56, crcUpdate 0xFFFF 0xFF, crcUpdateNibbles 0xFFFF 0x01,
     crcUpdateNibbles 0x807E 0x03] = [0xE993#16, 0x00FF, 0x807E, 0x2140] := by decide +kernel
theorem test_crc16_check_string :
    crc16 [0x31, 0x32, 0x33, 0x34, 0x35, 0x36, 0x37, 0x38, 0x39] = 0x4B37#16 := by decide +kernel
theorem test_crc16_ones :
    crc16 [0xFF, 0xFF, 0xFF, 0xFF, 0xFF, 0xFF, 0xFF, 0xFF] = 0x8F01#16 := by decide +kernel

/-! ## The commands, at most two tests each -/

/-- V20. -/
theorem test_crc16 :
    ∃ t, exec (.crc16 0 9) (onWire 0 [0x31, 0x32, 0x33, 0x34, 0x35, 0x36, 0x37, 0x38, 0x39]) =
      .next t ∧ t.crcout = 0x4B37#16 ∧ t.err = 0#4 := next_where (by decide +kernel)
/-- V23. -/
theorem test_crc16_range :
    ∃ t, exec (.crc16 510 3) docFrame = .next t ∧
      t.crcout = 0xFFFF#16 ∧ t.err = 2#4 ∧ t.errstk = true := next_where (by decide +kernel)
/-- V38. -/
theorem test_parse :
    ∃ t, exec (.parse 3 8) (onWire 3 [0x01, 0x10, 0x00, 0x0A, 0x00, 0x03, 0xA0, 0x0A]) = .next t ∧
      t.station = 0x01#8 ∧ t.func = 0x10#7 ∧ t.exc = 0#1 ∧ t.paylen = 4#12 ∧
      payloadBytes t 4 = [0x00#8, 0x0A#8, 0x00#8, 0x03#8] ∧ t.fcrc = 0x0AA0#16 :=
  next_where (by decide +kernel)
/-- V37. -/
theorem test_parse_exception :
    ∃ t, exec (.parse 0 4) (onWire 0 [0xFF, 0xFF, 0x00, 0x00]) = .next t ∧
      t.station = 0xFF#8 ∧ t.func = 0x7F#7 ∧ t.exc = 1#1 ∧ t.paylen = 0#12 ∧ t.fcrc = 0x0000#16 ∧
      t.err = 0#4 := next_where (by decide +kernel)
/-- V40. -/
theorem test_serialize :
    ∃ t, exec (.serialize 0) heldDoc = .next t ∧
      wireBytes t 0 8 = [0x01#8, 0x03#8, 0x00#8, 0x00#8, 0x00#8, 0x01#8, 0x84#8, 0x0A#8] ∧
      t.crcout = 0x0A84#16 ∧ t.len = 8#12 ∧ t.fcrc = 0x0000#16 ∧ t.err = 0#4 :=
  next_where (by decide +kernel)
/-- V43. -/
theorem test_serialize_range :
    ∃ t, exec (.serialize 0) (setPaylen 509 State.reset) = .next t ∧
      t.err = 2#4 ∧ t.wire = [] ∧ t.crcout = 0xFFFF#16 ∧ t.len = 0#12 :=
  next_where (by decide +kernel)
/-- V52. -/
theorem test_setexc :
    ∃ t, exec (.setexc 2) heldDoc = .next t ∧ t.exc = 1#1 ∧ t.paylen = 1#12 ∧
      payloadBytes t 4 = [0x02#8, 0x00#8, 0x00#8, 0x01#8] := next_where (by decide +kernel)
/-- V60. -/
theorem test_check_match :
    ∃ t, exec (.check 0 8) docFrame = .next t ∧
      t.crcout = 0x0A84#16 ∧ t.matched = true ∧ t.err = 0#4 := next_where (by decide +kernel)
/-- V63. -/
theorem test_check_mismatch :
    ∃ t, exec (.check 0 8) (onWire 0 [0x01, 0x03, 0x00, 0x00, 0x01, 0x01, 0x84, 0x0A]) = .next t ∧
      t.crcout = 0x9A85#16 ∧ t.matched = false ∧ t.err = 0#4 ∧ t.errstk = false :=
  next_where (by decide +kernel)

/-! ## The host port, one step each (V80 to V96) -/

theorem test_write_func : ∃ t, step (writing 0x0014 0xE3 State.reset) = .next t ∧ t.func = 0x63#7 :=
  next_where (by decide +kernel)
theorem test_write_exc : ∃ t, step (writing 0x0018 2 State.reset) = .next t ∧ t.exc = 0#1 :=
  next_where (by decide +kernel)
theorem test_write_paylen :
    ∃ t, step (writing 0x001C 0x1FFF State.reset) = .next t ∧ t.paylen = 0xFFF#12 :=
  next_where (by decide +kernel)
theorem test_write_wire :
    ∃ t, step (writing 0x47FC 0x1234 State.reset) = .next t ∧ wireByte t 511 = 0x34#8 :=
  next_where (by decide +kernel)
theorem test_read_cmd : ∃ t, step (reading 0x0000 heldDoc) = .next t ∧ t.replies = [0#32] :=
  next_where (by decide +kernel)
theorem test_read_cap : ∃ t, step (reading 0x0024 State.reset) = .next t ∧ t.replies = [0x200#32] :=
  next_where (by decide +kernel)
theorem test_read_status :
    ∃ t, step (reading 0x0004 (raiseError .illegal State.reset)) = .next t ∧ t.replies = [0x23#32] :=
  next_where (by decide +kernel)
theorem test_clear_sticky :
    ∃ t, step (writing 0x0004 0x20 (raiseError .short State.reset)) = .next t ∧
      t.errstk = false ∧ t.err = 1#4 := next_where (by decide +kernel)
theorem test_status_write_no_effect :
    ∃ t, step (writing 0x0004 0x1F (raiseError .short State.reset)) = .next t ∧
      t.errstk = true ∧ t.err = 1#4 := next_where (by decide +kernel)
theorem test_fault_write_crcout :
    step (writing 0x0008 0 State.reset) = .fault (.hostFault .readOnly) := rfl
theorem test_fault_unmapped_register :
    step (reading 0x0028 State.reset) = .fault (.hostFault .unmapped) := rfl
theorem test_fault_wire_512 :
    step (reading 0x4800 State.reset) = .fault (.hostFault .unmapped) := rfl
theorem test_fault_payload_508 :
    step (reading 0x87F0 State.reset) = .fault (.hostFault .unmapped) := rfl
theorem test_fault_width :
    step (setEvents [.access ⟨.read, 8, 0x0010⟩] State.reset) = .fault (.hostFault .width) := rfl
theorem test_fault_alignment :
    step (reading 0x0012 State.reset) = .fault (.hostFault .alignment) := rfl
/-- V96, run as the word in front of the host's list. -/
theorem test_step_serialize_after_reset :
    ∃ t, step (State.withFetchWord State.reset 32 0x03000000) = .next t ∧
      wireBytes t 0 4 = [0x00#8, 0x00#8, 0x01#8, 0xB0#8] ∧ t.len = 4#12 ∧ t.crcout = 0xB001#16 :=
  next_where (by decide +kernel)
/-- V70. -/
theorem test_step_illegal :
    ∃ t, step (State.withFetchWord State.reset 32 0) = .next t ∧ t.err = 3#4 ∧ t.errstk = true :=
  next_where (by decide +kernel)
/-- R230, R231: `CRCOUT` after the reset input is 0xFFFF, and the host's list goes on. -/
theorem test_step_reset :
    ∃ t, step (setEvents [.reset] (setCrcout 0 heldDoc)) = .next t ∧
      t.crcout = 0xFFFF#16 ∧ t.station = 0#8 ∧ t.epoch = 1 := next_where (by decide +kernel)

/-! ## Inputs that meet the hypotheses of the statements -/

theorem test_meets_WordSelectsItsOpcodeRow :
    0x01FFFFFF#32 &&& 0xFF000000#32 = 0x01000000#32 ∧
    0x02000000#32 &&& 0xFF000000#32 = 0x02000000#32 ∧
    0x03000FFF#32 &&& 0xFFFFF000#32 = 0x03000000#32 ∧
    0x040000FF#32 &&& 0xFFFFFF00#32 = 0x04000000#32 ∧
    0x05FFFFFF#32 &&& 0xFF000000#32 = 0x05000000#32 ∧
    (∃ r ∈ opcodeRows, rowMatches r 0x03000FFF#32 = true) := by decide

theorem test_meets_IllegalWordsRaiseErrIllegal :
    (writing 0x0000 0x03001000 State.reset).events = .access ⟨.write 0x03001000, 32, 0x0000⟩ :: [] ∧
    (∀ r ∈ opcodeRows, rowMatches r 0x03001000#32 = false) ∧
    (∀ r ∈ opcodeRows, rowMatches r 0x04000100#32 = false) ∧
    (∀ r ∈ opcodeRows, rowMatches r 0x00000000#32 = false) ∧
    (∀ r ∈ opcodeRows, rowMatches r 0x06000000#32 = false) := by decide

theorem test_meets_DecodeInvertsEncode :
    wellFormed (.crc16 4095 4095) = true ∧ wellFormed (.parse 0 4095) = true ∧
    wellFormed (.serialize 4095) = true ∧ wellFormed (.setexc 0xFF#8) = true ∧
    wellFormed (.check 4095 0) = true := by decide

theorem test_meets_EncodeInvertsDecode :
    decode 0x01FFFFFF#32 = .command (.crc16 4095 4095) ∧
    decode 0x03000FFF#32 = .command (.serialize 4095) ∧
    decode 0x040000FF#32 = .command (.setexc 0xFF#8) := by decide

theorem test_meets_StepRunsTheDecodedCommand :
    (writing 0x0000 0x05008000 docFrame).events = .access ⟨.write 0x05008000, 32, 0x0000⟩ :: [] ∧
    decode 0x05008000#32 = .command (.check 0 8) ∧
    decodeTableWord 32 0x05008000 = some (.check 0 8) := by decide

theorem test_meets_IdleStepWaits : docFrame.events = [] := rfl

/-- The ends of the range: it fits exactly, it is one byte too long, it is empty at `BUF_SIZE`. -/
theorem test_meets_Crc16ComputesTheRangeCrc :
    0 + 512 ≤ docFrame.cfg.bufSize ∧ 512 + 0 ≤ docFrame.cfg.bufSize ∧
    docFrame.cfg.bufSize < 510 + 3 ∧ docFrame.cfg.bufSize < 513 + 0 ∧ 6 ≤ docFrame.cfg.bufSize ∧
    (List.range 6).map (wireByte docFrame) =
      [0x01#8, 0x03#8, 0x00#8, 0x00#8, 0x00#8, 0x01#8] := by decide

/-- The shortest frame, one byte less, and the two sides of the end of WIRE (V34, V35). -/
theorem test_meets_ParseLoadsTheFrame :
    3 < 4 ∧ (4 ≤ 4 ∧ docFrame.cfg.bufSize < 509 + 4) ∧ (4 ≤ 4 ∧ 508 + 4 ≤ docFrame.cfg.bufSize) ∧
    (4 ≤ 512 ∧ 0 + 512 ≤ docFrame.cfg.bufSize) ∧ 8 ≤ docFrame.cfg.bufSize ∧
    (List.range 8).map (wireByte docFrame) =
      [0x01#8, 0x03#8, 0x00#8, 0x00#8, 0x00#8, 0x01#8, 0x84#8, 0x0A#8] := by decide

/-- V43 to V45 and V47: `PAYLEN` 508 fits at 0 and not at 1, and 509 is above `PAY_SIZE`. -/
theorem test_meets_SerializeWritesTheFrame :
    (0x03001000#32).toNat / 2 ^ 24 = 3 ∧ (0x03001000#32).toNat / 2 ^ 12 % 2 ^ 12 ≠ 0 ∧
    (0 + (setPaylen 508 State.reset).paylen.toNat + 4 ≤ (setPaylen 508 State.reset).cfg.bufSize) ∧
    ((setPaylen 508 State.reset).cfg.bufSize < 1 + (setPaylen 508 State.reset).paylen.toNat + 4) ∧
    ((setPaylen 509 State.reset).cfg.paySize < (setPaylen 509 State.reset).paylen.toNat) ∧
    8 ≤ heldDoc.cfg.bufSize ∧ heldDoc.station = 0x01#8 ∧ heldDoc.func = 0x03#7 ∧
    heldDoc.exc = 0#1 ∧ heldDoc.paylen = 4#12 ∧
    (List.range 4).map (payloadByte heldDoc) = [0x00#8, 0x00#8, 0x00#8, 0x01#8] := by decide

theorem test_meets_SetexcMakesAnExceptionFrame :
    (0x04000100#32).toNat / 2 ^ 24 = 4 ∧ (0x04000100#32).toNat / 2 ^ 8 % 2 ^ 16 ≠ 0 ∧
    507 + 5 ≤ State.reset.cfg.bufSize ∧
    (holding 0x01 0x63 0 []).station = 0x01#8 ∧ (holding 0x01 0x63 0 []).func = 0x63#7 ∧
    (holding 0x01 0x63 0 []).exc = 0#1 ∧ (holding 0x01 0x63 0 []).paylen = 0#12 := by decide

theorem test_meets_CheckComparesTheCrc :
    3 < 4 ∧ (4 ≤ 4 ∧ docFrame.cfg.bufSize < 510 + 4) ∧ (4 ≤ 4 ∧ 508 + 4 ≤ docFrame.cfg.bufSize) ∧
    8 ≤ docFrame.cfg.bufSize ∧ 8 ≤ badFrame.cfg.bufSize ∧
    (List.range 8).map (wireByte docFrame) =
      [0x01#8, 0x03#8, 0x00#8, 0x00#8, 0x00#8, 0x01#8, 0x84#8, 0x0A#8] ∧
    (List.range 8).map (wireByte badFrame) =
      [0x01#8, 0x03#8, 0x00#8, 0x00#8, 0x00#8, 0x01#8, 0x85#8, 0x0A#8] := by decide

/-- Every command succeeds somewhere, and each of the four that can fail does so somewhere. -/
theorem test_meets_CommandsWriteOnlyWhatTheTableSays :
    (∃ t, exec (.crc16 0 6) docFrame = .next t ∧ t.err = 0#4) ∧
    (∃ t, exec (.crc16 510 3) docFrame = .next t ∧ t.err ≠ 0#4) ∧
    (∃ t, exec (.parse 0 8) docFrame = .next t ∧ t.err = 0#4) ∧
    (∃ t, exec (.parse 0 3) docFrame = .next t ∧ t.err ≠ 0#4) ∧
    (∃ t, exec (.serialize 504) heldDoc = .next t ∧ t.err = 0#4) ∧
    (∃ t, exec (.serialize 505) heldDoc = .next t ∧ t.err ≠ 0#4) ∧
    (∃ t, exec (.setexc 7) heldDoc = .next t ∧ t.err = 0#4) ∧
    (∃ t, exec (.check 0 8) docFrame = .next t ∧ t.err = 0#4) ∧
    (∃ t, exec (.check 0 3) docFrame = .next t ∧ t.err ≠ 0#4) :=
  ⟨next_where (by decide +kernel), next_where (by decide +kernel), next_where (by decide +kernel),
   next_where (by decide +kernel), next_where (by decide +kernel), next_where (by decide +kernel),
   next_where (by decide +kernel), next_where (by decide +kernel), next_where (by decide +kernel)⟩

/-- A failing `CHECK`, whose `MATCH` is cleared, and another failing command. -/
theorem test_meets_CommandErrorChangesStatusAlone :
    (∃ t, step (writing 0x0000 0x05003000 (setMatched true docFrame)) = .next t ∧
      t.err ≠ 0#4 ∧ t.matched = false) ∧
    (∃ t, step (writing 0x0000 0x02003000 (setMatched true docFrame)) = .next t ∧
      t.err ≠ 0#4 ∧ t.matched = true) :=
  ⟨next_where (by decide +kernel), next_where (by decide +kernel)⟩

/-- One access for each code: V47, V36, V35, V43, V21. -/
theorem test_meets_ErrorPriorityDecidesTheCode :
    (∃ t, step (writing 0x0000 0x03001000 State.reset) = .next t ∧ t.err = 3#4) ∧
    (∃ t, step (writing 0x0000 0x02003FFF State.reset) = .next t ∧ t.err = 1#4) ∧
    (∃ t, step (writing 0x0000 0x020041FD State.reset) = .next t ∧ t.err = 2#4) ∧
    (∃ t, step (writing 0x0000 0x03000000 (setPaylen 509 State.reset)) = .next t ∧ t.err = 2#4) ∧
    (∃ t, step (writing 0x0000 0x01000000 State.reset) = .next t ∧ t.err = 0#4) :=
  ⟨next_where (by decide +kernel), next_where (by decide +kernel), next_where (by decide +kernel),
   next_where (by decide +kernel), next_where (by decide +kernel)⟩

/-- A step of each kind, and a `CHECK` that ends in `OK` with `MATCH = 0`. -/
theorem test_meets_StickyBitRule :
    (∃ t, step (raiseError .short State.reset) = .next t ∧ t.errstk = true) ∧
    (∃ t, step (setEvents [.reset] (raiseError .short State.reset)) = .next t ∧ t.errstk = false) ∧
    (∃ t, step (reading 0x0004 (raiseError .short State.reset)) = .next t ∧ t.errstk = true) ∧
    (∃ t, step (writing 0x0000 0 State.reset) = .next t ∧ t.errstk = true) ∧
    (∃ t, step (writing 0x0000 0x01000000 (raiseError .short State.reset)) = .next t ∧
      t.errstk = true) ∧
    (∃ t, step (writing 0x0010 0x20 (raiseError .short State.reset)) = .next t ∧ t.errstk = true) ∧
    (∃ t, exec (.check 0 8) badFrame = .next t ∧ t.err = 0#4 ∧ t.matched = false) :=
  ⟨next_where (by decide +kernel), next_where (by decide +kernel), next_where (by decide +kernel),
   next_where (by decide +kernel), next_where (by decide +kernel), next_where (by decide +kernel),
   next_where (by decide +kernel)⟩

/-- Every register, every field of `STATUS` and both memories change in some step. -/
theorem test_meets_EachRegisterHasItsWriters :
    (∃ t, step (writing 0x0000 0x02005000 (onWire 0 [0x01, 0x83, 0x02, 0xC0, 0xF1])) = .next t ∧
      t.station ≠ 0#8 ∧ t.func ≠ 0#7 ∧ t.exc ≠ 0#1 ∧ t.paylen ≠ 0#12 ∧ t.fcrc ≠ 0#16 ∧
      payloadByte t 0 = 0x02#8) ∧
    (∃ t, step (writing 0x0000 0x05008000 docFrame) = .next t ∧
      t.matched ≠ docFrame.matched ∧ t.crcout ≠ docFrame.crcout) ∧
    (∃ t, step (writing 0x0000 0x03000000 (writeWire 0 [0xFF] heldDoc)) = .next t ∧
      t.len ≠ heldDoc.len ∧ wireByte t 0 ≠ 0xFF#8) ∧
    (∃ t, step (writing 0x0000 0 State.reset) = .next t ∧
      t.err ≠ State.reset.err ∧ t.errstk ≠ State.reset.errstk) ∧
    (∃ t, step (writing 0x0004 0x20 (raiseError .short State.reset)) = .next t ∧
      t.errstk ≠ (raiseError .short State.reset).errstk) :=
  ⟨next_where (by decide +kernel), next_where (by decide +kernel), next_where (by decide +kernel),
   next_where (by decide +kernel), next_where (by decide +kernel)⟩

/-- The last byte of each memory, and one offset read twice. -/
theorem test_meets_HostReadReturnsTheRegister :
    511 < State.reset.cfg.bufSize ∧ 507 < State.reset.cfg.paySize ∧
    (∃ t, step (setEvents [.access ⟨.read, 32, 0x0008⟩, .access ⟨.read, 32, 0x0008⟩] State.reset) =
      .next t ∧ t = reading 0x0008 (reply 0xFFFF State.reset)) ∧
    (∃ t, step (reading 0x0008 (reply 0xFFFF State.reset)) = .next t ∧
      t.replies = [0xFFFF#32, 0xFFFF#32]) :=
  ⟨by decide, by decide, next_where (by decide +kernel), next_where (by decide +kernel)⟩

theorem test_meets_HostWriteStoresTheLowBits :
    511 < State.reset.cfg.bufSize ∧ 507 < State.reset.cfg.paySize ∧
    decode 0x040000FF#32 = .command (.setexc 0xFF#8) := by decide

/-- Each of the four refusals alone (R57), and the last word of each area admitted. -/
theorem test_meets_HostFaultExactlyOutsideTheMap :
    (∃ t, step (reading 0x0024 State.reset) = .next t ∧ t.epoch = 0) ∧
    (∃ t, step (writing 0x47FC 1 State.reset) = .next t ∧ t.epoch = 0) ∧
    (∃ t, step (writing 0x87EC 1 State.reset) = .next t ∧ t.epoch = 0) ∧
    step (setEvents [.access ⟨.read, 64, 0x0000⟩] State.reset) = .fault (.hostFault .width) ∧
    step (reading 0x0001 State.reset) = .fault (.hostFault .alignment) ∧
    step (reading 0xC000 State.reset) = .fault (.hostFault .unmapped) ∧
    step (writing 0x000C 1 State.reset) = .fault (.hostFault .readOnly) :=
  ⟨next_where (by decide +kernel), next_where (by decide +kernel), next_where (by decide +kernel),
   rfl, rfl, rfl, rfl⟩

theorem test_meets_CapIsTheConstantMemorySize :
    ∃ t, step (setEvents [.reset] docFrame) = .next t ∧ t.cfg.bufSize = 512 :=
  next_where (by decide +kernel)

/-- A write and a read of one index, and of two. -/
theorem test_meets_ReadReturnsTheLatestWrite :
    511 < State.reset.cfg.bufSize ∧ 507 < State.reset.cfg.paySize ∧ 0 < State.reset.cfg.paySize ∧
    (setEvents [.access ⟨.write 7, 32, 0x4000 + 4 * 511⟩, .access ⟨.read, 32, 0x4000 + 4 * 0⟩]
      docFrame).events =
      .access ⟨.write 7, 32, 0x4000 + 4 * 511⟩ :: .access ⟨.read, 32, 0x4000 + 4 * 0⟩ :: [] ∧
    (setEvents [.access ⟨.write 7, 32, 0x8000 + 4 * 507⟩, .access ⟨.read, 32, 0x8000 + 4 * 507⟩]
      heldDoc).events =
      .access ⟨.write 7, 32, 0x8000 + 4 * 507⟩ :: .access ⟨.read, 32, 0x8000 + 4 * 507⟩ :: [] := by
  decide

theorem test_meets_CrcDetectsAOneByteChange : (0x00#8 : Byte) ≠ 0x80#8 := by decide

theorem test_meets_ParseLosesNothing :
    ∃ t, exec (.parse 0 8) docFrame = .next t ∧ t.err = 0#4 := next_where (by decide +kernel)

theorem test_meets_ParseDoesNotValidateTheCrc :
    4 ≤ 8 ∧ (∀ k, k < 8 - 2 →
      wireByte { docFrame with wire := badFrame.wire } (0 + k) = wireByte docFrame (0 + k)) ∧
    ∃ t, exec (.parse 0 8) docFrame = .next t ∧ t.fcrc = 0x0A84#16 :=
  ⟨by decide, by decide, next_where (by decide +kernel)⟩

theorem test_meets_SerializeIgnoresBytesAboveTheFrame :
    (∀ k, k < heldDoc.paylen.toNat →
      payloadByte { heldDoc with payload := memSet heldDoc.payload 4 0xFF } k =
        payloadByte heldDoc k) ∧
    ∃ t, exec (.serialize 0) heldDoc = .next t ∧ t.err = 0#4 :=
  ⟨by decide, next_where (by decide +kernel)⟩

theorem test_meets_SerializedFramePassesCheck :
    ∃ t, exec (.serialize 504) heldDoc = .next t ∧ t.err = 0#4 := next_where (by decide +kernel)

theorem test_meets_ParseOfSerializeIsTheFrame :
    504 + heldDoc.paylen.toNat + 4 ≤ heldDoc.cfg.bufSize ∧
    0 + (setPaylen 508 State.reset).paylen.toNat + 4 ≤ State.reset.cfg.bufSize := by decide

theorem test_meets_SerializeOfParseIsTheRange :
    4 ≤ 4 ∧ 508 + 4 ≤ docFrame.cfg.bufSize ∧ 0 + 4 ≤ docFrame.cfg.bufSize := by decide

theorem test_meets_CheckAgreesWithTheOtherCommands :
    4 ≤ 4 ∧ 508 + 4 ≤ docFrame.cfg.bufSize ∧ 4 ≤ 8 ∧ 0 + 8 ≤ docFrame.cfg.bufSize ∧
    504 + heldDoc.paylen.toNat + 4 ≤ heldDoc.cfg.bufSize := by decide

/-- V60 passes; V61 and V63 are its two kinds of corruption. -/
theorem test_meets_CheckDetectsCorruption :
    (∃ t, exec (.check 0 8) docFrame = .next t ∧ t.matched = true) ∧
    (0x85#8 ≠ wireByte docFrame (0 + 8 - 2) ∨ 0x0A#8 ≠ wireByte docFrame (0 + 8 - 1)) ∧
    (5 < 8 - 2 ∧ 0x00#8 ≠ wireByte docFrame (0 + 5)) :=
  ⟨next_where (by decide +kernel), by decide, by decide⟩

/-- A state at the ends of the invariant's bounds: the last byte of each memory written, `ERR` 3, `LEN` 512, `CRCOUT` the CRC of the byte 01 (V4). -/
def edgeState : State :=
  { State.reset with
    wire := [(0, 0x01#8), (511, 0x02#8)], payload := [(507, 0x03#8)], err := 3#4,
    errstk := true, len := 512#12, crcout := 0x807E#16 }

theorem test_inv_edge : Inv edgeState where
  wire_wf := by decide
  wire_below := by decide
  payload_wf := by decide
  payload_below := by decide
  err_legal := by decide
  len_legal := by decide
  crcout_is_crc := ⟨[0x01#8], by decide +kernel⟩

theorem test_meets_CommandsAreIdempotent :
    Inv edgeState ∧ (∃ t, exec (.crc16 511 1) edgeState = .next t ∧ t.err = 0#4) ∧
    (∃ t, exec (.serialize 508) edgeState = .next t ∧ t.err = 0#4) ∧
    (∃ t, exec (.setexc 1) edgeState = .next t ∧ t.err = 0#4) :=
  ⟨test_inv_edge, next_where (by decide +kernel), next_where (by decide +kernel),
   next_where (by decide +kernel)⟩

theorem test_meets_ExceptionFrameOnTheWire : 507 + 5 ≤ heldDoc.cfg.bufSize := by decide

theorem test_meets_ResetGivesTheTable :
    (setEvents [.reset] heldDoc).events = .reset :: [] ∧
    ∃ t, exec (.serialize 0) heldDoc = .next t ∧ t.err = 0#4 :=
  ⟨rfl, next_where (by decide +kernel)⟩

theorem test_meets_ResetForgetsTheMemories :
    (setEvents [.reset] docFrame).events = .reset :: [] := rfl

theorem test_meets_EveryStepKeepsTheInvariant :
    Inv edgeState ∧ ∃ t, step edgeState = .next t ∧ t.err = 3#4 :=
  ⟨test_inv_edge, next_where (by decide +kernel)⟩

/-- A run that ends, and a list with an access the map does not admit. -/
theorem test_meets_GoodRunExactlyWhenEveryAccessIsAdmitted :
    RunEnds (reading 0x0008 State.reset)
      { State.reset with replies := [0xFFFF#32] } ∧
    admitsEvent Config.default (.access ⟨.read, 32, 0x0028⟩) = false ∧
    admitsEvent Config.default .reset = true :=
  ⟨rfl, by decide, by decide⟩

end Sys2Proof.Machine
end

/-! SUPPORT. The five commands said once: when a command is carried out, what it then leaves, and
what a command error leaves. Later proofs take a command apart by `exec_ends` and run one by
`exec_of_fits`. -/

namespace Sys2Proof.Machine

section
variable {s t : State} {i : Instr}

/-- What a command leaves when it is carried out (the table of R39), but for `ERR`. -/
def commandEffect : Instr → State → State
  | .crc16 off cnt, s => setCrcout (crc16 (wireBytes s off cnt)) s
  | .parse off cnt, s => loadFrame off cnt s
  | .serialize off, s => storeFrame off s
  | .setexc code, s => setPaylen 1#12 (writePayload 0 [code] (setExc 1#1 s))
  | .check off cnt, s =>
    compareCrc (crc16 (wireBytes s off (cnt - 2))) (receivedCrc s off cnt)
      (setCrcout (crc16 (wireBytes s off (cnt - 2))) s)

/-- When a command is carried out: its frame is not too short (R201) and its range lies inside
WIRE (R202). -/
def commandFits : Instr → State → Prop
  | .crc16 off cnt, s => off + cnt ≤ s.cfg.bufSize
  | .parse off cnt, s => 4 ≤ cnt ∧ off + cnt ≤ s.cfg.bufSize
  | .serialize off, s => off + s.paylen.toNat + 4 ≤ s.cfg.bufSize
  | .setexc _, _ => True
  | .check off cnt, s => 4 ≤ cnt ∧ off + cnt ≤ s.cfg.bufSize

/-- `STATUS.MATCH` when a command fails: `CHECK` clears it (R145), the others keep it (R30). -/
def matchOnFailure : Instr → State → Bool
  | .check _ _, _ => false
  | _, s => s.matched

/-- How a command ends: with its effect and `OK` when it fits, with a command error when it does
not. -/
inductive CommandEnds (i : Instr) (s t : State) : Prop
  /-- The command is carried out (R200). -/
  | ok (fits : commandFits i s) (answer : t = succeed (commandEffect i s))
  /-- The command ends with the error `e` (R204). -/
  | error (misfits : ¬ commandFits i s) (e : CmdError)
    (answer : t = raiseError e (setMatched (matchOnFailure i s) s))

/-- All that a command can do. -/
theorem exec_ends (h : exec i s = .next t) : CommandEnds i s t := by
  cases i with
  | crc16 off cnt =>
    obtain ⟨hr, ht⟩ | ⟨hr, ht⟩ := execCrc16_cases h
    · exact .ok hr ht
    · exact .error (Nat.not_le.2 hr) .range ht
  | parse off cnt =>
    obtain ⟨hs, ht⟩ | ⟨h4, hr, ht⟩ | ⟨-, hr, ht⟩ := execParse_cases h
    · exact .error (fun hf => Nat.not_lt.2 hf.1 hs) .short ht
    · exact .ok ⟨h4, hr⟩ ht
    · exact .error (fun hf => Nat.not_lt.2 hf.2 hr) .range ht
  | serialize off =>
    obtain ⟨hr, ht⟩ | ⟨hr, ht⟩ := execSerialize_cases h
    · exact .ok hr ht
    · exact .error (Nat.not_le.2 hr) .range ht
  | setexc code => exact .ok trivial (execSetexc_cases h)
  | check off cnt =>
    obtain ⟨hs, ht⟩ | ⟨h4, hr, ht⟩ | ⟨-, hr, ht⟩ := execCheck_cases h
    · exact .error (fun hf => Nat.not_lt.2 hf.1 hs) .short ht
    · exact .ok ⟨h4, hr⟩ ht
    · exact .error (fun hf => Nat.not_lt.2 hf.2 hr) .range ht

/-- A command that fits is carried out. -/
theorem exec_of_fits (h : commandFits i s) : exec i s = .next (succeed (commandEffect i s)) := by
  cases i with
  | crc16 off cnt => exact if_pos ((rangeFits_iff ..).2 h)
  | parse off cnt =>
    have hs : ¬ tooShort cnt = true := fun hs => Nat.not_lt.2 h.1 ((tooShort_iff _).1 hs)
    exact (if_neg hs).trans (if_pos ((rangeFits_iff ..).2 h.2))
  | serialize off => exact if_pos ((rangeFits_iff ..).2 (Nat.add_assoc .. ▸ h))
  | setexc code => rfl
  | check off cnt =>
    have hs : ¬ tooShort cnt = true := fun hs => Nat.not_lt.2 h.1 ((tooShort_iff _).1 hs)
    exact (if_neg hs).trans (if_pos ((rangeFits_iff ..).2 h.2))

@[simp] theorem errorCode_ne_zero (e : CmdError) : errorCode e ≠ 0#4 := by cases e <;> decide

end

end Sys2Proof.Machine

/-! O6 and O22. The opcode of a decoded word, the offset of a word of the map, a step that reads or
writes a word of the map, and `BUF_SIZE`, which no step changes. -/

namespace Sys2Proof.Machine

section
variable {s t : State} {i : Instr} {off : Nat} {tgt : Target} {rest : List HostEvent}

/-- The opcode of a command (R85). -/
def opcodeOf : Instr → Nat
  | .crc16 _ _ => 1
  | .parse _ _ => 2
  | .serialize _ => 3
  | .setexc _ => 4
  | .check _ _ => 5

theorem opField_toNat (w : Word32) : (opField w).toNat = w.toNat / 2 ^ 24 := by
  have := w.isLt
  rw [opField, BitVec.extractLsb'_toNat, Nat.shiftRight_eq_div_pow, Nat.mod_eq_of_lt (by omega)]

/-- A word that decodes to a command has the command's opcode in bits 31:24. -/
theorem decode_opcode {w : Word32} (h : decode w = .command i) : w.toNat / 2 ^ 24 = opcodeOf i := by
  rw [← opField_toNat]
  simp only [decode] at h
  split_ifs at h <;> cases h <;> simp [*, opcodeOf]

/-- An aligned offset that the map has is the offset of its word (R58). -/
theorem offset_of_mapTarget {cfg : Config} (hal : off % 4 = 0) (h : mapTarget cfg off = some tgt) :
    off = targetOffset tgt := by
  have hrows : ∀ row ∈ registerMap, row.1 = targetOffset row.2 := by decide
  unfold mapTarget at h
  split_ifs at h with h1 h2 _ h3
  · obtain ⟨l₁, l₂, hl, -⟩ := List.lookup_eq_some_iff.1 h
    exact hrows (off, tgt) (by simp [hl])
  · cases h; simp only [targetOffset]; omega
  · cases h; simp only [targetOffset]; omega

/-- Reading a word of the map does not depend on what the host does later. -/
@[simp] theorem readTarget_setEvents (es : List HostEvent) (s : State) (tgt : Target) :
    readTarget (setEvents es s) tgt = readTarget s tgt := by
  cases tgt <;> rfl

/-- A step that finds a host access takes it. -/
theorem step_access {a : HostAccess} (he : s.events = .access a :: rest) :
    step s = hostAccess a (setEvents rest s) := by
  simp [step, he, takeEvent]

/-- A host read of a word of the map hands over its value (R59). -/
theorem step_read (he : s.events = .access ⟨.read, 32, off⟩ :: rest) (hal : off % 4 = 0)
    (hmap : mapTarget s.cfg off = some tgt) :
    step s = .next (reply (readTarget s tgt) (setEvents rest s)) := by
  simp [step_access he, hostAccess, hal, hmap]

/-- A host write of a word of the map (R60). -/
theorem step_write {v : Word32} (he : s.events = .access ⟨.write v, 32, off⟩ :: rest)
    (hal : off % 4 = 0) (hmap : mapTarget s.cfg off = some tgt) :
    step s = writeTarget v (setEvents rest s) tgt := by
  simp [step_access he, hostAccess, hal, hmap]

theorem runCommand_of_decode {w : Word32} (h : decode w = .command i) :
    runCommand w s = exec i s := by
  simp [runCommand, h]

/-- A host write of a legal word to `CMD` runs its command (R31, R61). -/
theorem step_command {w : Word32} (he : s.events = .access ⟨.write w, 32, 0x0000⟩ :: rest)
    (hw : decode w = .command i) : step s = exec i (setEvents rest s) := by
  rw [step_write he rfl (mapTarget_register s.cfg (tgt := .cmd) (by simp [registerMap]))]
  exact runCommand_of_decode hw

theorem decode_of_decodeTableWord {nbits w : Nat} (h : decodeTableWord nbits w = some i) :
    decode (tableWord nbits w) = .command i := by
  unfold decodeTableWord at h
  split at h
  · next j hj => rw [hj, Option.some.inj h]
  · cases h

theorem writeTarget_keeps_cfg {v : Word32} (h : writeTarget v s tgt = .next t) : t.cfg = s.cfg := by
  obtain ⟨-, hc⟩ | ⟨-, rfl⟩ | ⟨-, rfl⟩ | ⟨-, rfl⟩ | ⟨-, rfl⟩ | ⟨-, rfl⟩ | ⟨-, rfl⟩ | ⟨k, -, rfl⟩ |
    ⟨k, -, rfl⟩ := writeTarget_cases h
  · obtain ⟨i, -, hi⟩ | ⟨_, -, rfl⟩ := runCommand_cases hc
    · exact (exec_keeps_environment hi).1
    · rfl
  · unfold writeStatus; split <;> rfl
  all_goals rfl

/-- No step changes the parameters of R6, a reset included (R32). -/
theorem step_keeps_cfg (h : step s = .next t) : t.cfg = s.cfg := by
  obtain ⟨-, rfl⟩ | ⟨rest, -, rfl⟩ | ⟨a, rest, -, ha⟩ := step_cases h
  · rfl
  · rfl
  · obtain ⟨-, -, tgt, -, ⟨-, rfl⟩ | ⟨v, -, hw⟩⟩ := hostAccess_cases ha
    · rfl
    · exact (writeTarget_keeps_cfg hw).trans rfl

/-- `BUF_SIZE` fits the 12 bits of `CAP` (R6, R32). -/
theorem capWord_toNat (cfg : Config) : (BitVec.ofNat 32 cfg.bufSize).toNat = cfg.bufSize := by
  have := cfg.bufSize_le
  rw [BitVec.toNat_ofNat, Nat.mod_eq_of_lt (by omega)]

theorem mapTarget_cap (cfg : Config) : mapTarget cfg 0x0024 = some .cap :=
  mapTarget_register cfg (by simp [registerMap])

end

/-- Settles O6: the write of `CMD` reaches `runCommand`, which runs the word decoded. -/
theorem stepRunsTheDecodedCommand : Obligations.StepRunsTheDecodedCommand :=
  ⟨fun _ _ _ _ he hw => step_command he hw,
   fun _ _ _ _ hw => step_command rfl (decode_of_decodeTableWord hw)⟩

/-- Settles O22: `CAP` is a read-only word that reads `cfg.bufSize`, and no step changes `cfg`. -/
theorem capIsTheConstantMemorySize : Obligations.CapIsTheConstantMemorySize := by
  refine ⟨fun s rest => ?_, fun s w rest => ?_, fun s t => step_keeps_cfg⟩
  · have := s.cfg.bufSize_le
    refine ⟨BitVec.ofNat 32 s.cfg.bufSize, ?_, ?_, ?_⟩
    · exact step_read (s := setEvents (.access ⟨.read, 32, 0x0024⟩ :: rest) s) rfl rfl
        (mapTarget_cap s.cfg)
    · rw [capWord_toNat, Nat.mod_eq_of_lt (by omega)]
    · rw [capWord_toNat, Nat.div_eq_of_lt (by omega)]
  · exact step_write (s := setEvents (.access ⟨.write w, 32, 0x0024⟩ :: rest) s) rfl rfl
      (mapTarget_cap s.cfg)

end Sys2Proof.Machine

/-! O44 and O45. The invariant, one rule per update of the state, then per command, per host write
and per step. -/

namespace Sys2Proof.Machine

section
variable {s t : State} {i : Instr} {off : Nat} {tgt : Target}

/-- The invariant speaks of `cfg`, the memories, `ERR`, `LEN` and `CRCOUT` alone. -/
theorem Inv.congr (h : Inv s) (cfg : t.cfg = s.cfg := by rfl) (wire : t.wire = s.wire := by rfl)
    (payload : t.payload = s.payload := by rfl) (err : t.err = s.err := by rfl)
    (len : t.len = s.len := by rfl) (crcout : t.crcout = s.crcout := by rfl) : Inv t where
  wire_wf := wire ▸ h.wire_wf
  wire_below := cfg ▸ wire ▸ h.wire_below
  payload_wf := payload ▸ h.payload_wf
  payload_below := cfg ▸ payload ▸ h.payload_below
  err_legal := err ▸ h.err_legal
  len_legal := cfg ▸ len ▸ h.len_legal
  crcout_is_crc := crcout ▸ h.crcout_is_crc

theorem Inv.writeWire (h : Inv s) {a : Nat} {bs : List Byte} (hfit : a + bs.length ≤ s.cfg.bufSize) :
    Inv (writeWire a bs s) :=
  { h with
    wire_wf := memSetBytes_wf h.wire_wf a bs
    wire_below := memSetBytes_below h.wire_below hfit }

theorem Inv.writePayload (h : Inv s) {a : Nat} {bs : List Byte}
    (hfit : a + bs.length ≤ s.cfg.paySize) : Inv (writePayload a bs s) :=
  { h with
    payload_wf := memSetBytes_wf h.payload_wf a bs
    payload_below := memSetBytes_below h.payload_below hfit }

theorem Inv.setCrcout (h : Inv s) (bs : List Byte) : Inv (setCrcout (crc16 bs) s) :=
  { h with crcout_is_crc := ⟨bs, rfl⟩ }

theorem Inv.setLen (h : Inv s) {v : BitVec 12} (h4 : 4 ≤ v.toNat) (hv : v.toNat ≤ s.cfg.bufSize) :
    Inv (setLen v s) :=
  { h with len_legal := .inr ⟨h4, hv⟩ }

theorem Inv.succeed (h : Inv s) : Inv (succeed s) := { h with err_legal := Nat.zero_le 3 }

theorem errorCode_le_three (e : CmdError) : (errorCode e).toNat ≤ 3 := by cases e <;> decide

theorem Inv.raiseError (h : Inv s) (e : CmdError) : Inv (raiseError e s) :=
  { h with err_legal := errorCode_le_three e }

/-- `PAYLOAD` is four bytes smaller than `WIRE` (R6, R26). -/
theorem paySize_add_four (cfg : Config) : cfg.paySize + 4 = cfg.bufSize :=
  Nat.sub_add_cancel (Nat.le_of_succ_le cfg.bufSize_ge)

/-- A stored frame has `PAYLEN + 4` bytes. -/
theorem frame_length (s : State) (c : Word16) :
    (frameBody s ++ crcBytes c).length = s.paylen.toNat + 4 := by simp

/-- A frame that fits WIRE has a length that `LEN` can hold (R29). -/
theorem toNat_ofNat_frameLength (cfg : Config) {n : Nat} (h : n ≤ cfg.bufSize) :
    (BitVec.ofNat 12 n).toNat = n := by
  have := cfg.bufSize_le
  rw [BitVec.toNat_ofNat, Nat.mod_eq_of_lt (by omega)]

theorem Inv.loadFrame (h : Inv s) {cnt : Nat} (hcnt : cnt ≤ s.cfg.bufSize) :
    Inv (loadFrame off cnt s) := by
  have hp := paySize_add_four s.cfg
  have hfit : 0 + (wireBytes s (off + 2) (cnt - 4)).length ≤ s.cfg.paySize := by
    rw [wireBytes_length]; omega
  exact (h.writePayload hfit).congr

theorem Inv.storeFrame (h : Inv s) (hfit : off + s.paylen.toNat + 4 ≤ s.cfg.bufSize) :
    Inv (storeFrame off s) := by
  have hlen := toNat_ofNat_frameLength s.cfg (n := s.paylen.toNat + 4) (by omega)
  have hwire : off + (frameBody s ++ crcBytes (crc16 (frameBody s))).length ≤ s.cfg.bufSize := by
    rw [frame_length]; omega
  refine ((h.writeWire hwire).setCrcout _).setLen ?_ ?_
  · omega
  · rw [hlen]; simp only [setCrcout_cfg, writeWire_cfg]; omega

theorem commandEffect_keeps_inv (h : Inv s) (hfit : commandFits i s) : Inv (commandEffect i s) := by
  cases i with
  | crc16 off cnt => exact h.setCrcout _
  | parse off cnt => exact h.loadFrame (Nat.le_of_add_left_le hfit.2)
  | serialize off => exact h.storeFrame hfit
  | setexc code =>
    have hp := paySize_add_four s.cfg
    have hb := s.cfg.bufSize_ge
    have hone : 0 + [code].length ≤ s.cfg.paySize := by simp; omega
    exact (h.writePayload hone).congr
  | check off cnt => exact (h.setCrcout _).congr

theorem exec_keeps_inv (h : Inv s) (hx : exec i s = .next t) : Inv t := by
  obtain ⟨hfit, rfl⟩ | ⟨-, e, rfl⟩ := exec_ends hx
  · exact (commandEffect_keeps_inv h hfit).succeed
  · exact (h.congr (t := setMatched (matchOnFailure i s) s)).raiseError e

theorem runCommand_keeps_inv {w : Word32} (h : Inv s) (hx : runCommand w s = .next t) : Inv t := by
  obtain ⟨i, -, hi⟩ | ⟨_, -, rfl⟩ := runCommand_cases hx
  · exact exec_keeps_inv h hi
  · exact h.raiseError _

theorem Inv.writeStatus (h : Inv s) (v : Word32) : Inv (writeStatus v s) := by
  unfold Machine.writeStatus
  split
  · exact h.congr
  · exact h

/-- A host write keeps the invariant; a word of memory that the map has is one inside it. -/
theorem writeTarget_keeps_inv {v : Word32} (h : Inv s) (hmap : mapTarget s.cfg off = some tgt)
    (hx : writeTarget v s tgt = .next t) : Inv t := by
  obtain ⟨hwire, hpay⟩ := mapTarget_bound hmap
  obtain ⟨-, hc⟩ | ⟨-, rfl⟩ | ⟨-, rfl⟩ | ⟨-, rfl⟩ | ⟨-, rfl⟩ | ⟨-, rfl⟩ | ⟨-, rfl⟩ | ⟨k, rfl, rfl⟩ |
    ⟨k, rfl, rfl⟩ := writeTarget_cases hx
  · exact runCommand_keeps_inv h hc
  · exact h.writeStatus v
  -- the five frame registers
  iterate 5 exact h.congr
  · exact h.writeWire (hwire k rfl)
  · exact h.writePayload (hpay k rfl)

theorem inv_resetOf (cfg : Config) : Inv (State.resetOf cfg) where
  wire_wf := List.Pairwise.nil
  wire_below := by simp [State.resetOf]
  payload_wf := List.Pairwise.nil
  payload_below := by simp [State.resetOf]
  err_legal := by simp [State.resetOf]
  len_legal := .inl rfl
  crcout_is_crc := ⟨[], rfl⟩

end

/-- Settles O44: nothing is written, `ERR` and `LEN` are 0, and `CRCOUT` is the CRC of no bytes. -/
theorem invariantHoldsAtReset : Obligations.InvariantHoldsAtReset :=
  ⟨inv_resetOf _, inv_resetOf⟩

/-- Settles O45, by the three kinds of step: waiting, the reset, and a host access. -/
theorem everyStepKeepsTheInvariant : Obligations.EveryStepKeepsTheInvariant := by
  intro s t h hstep
  obtain ⟨-, rfl⟩ | ⟨rest, -, rfl⟩ | ⟨a, rest, -, ha⟩ := step_cases hstep
  · exact h
  · exact (inv_resetOf s.cfg).congr
  · have h' : Inv (setEvents rest s) := h.congr
    obtain ⟨-, -, tgt, hmap, ⟨-, rfl⟩ | ⟨v, -, hw⟩⟩ := hostAccess_cases ha
    · exact h'.congr
    · exact writeTarget_keeps_inv h' hmap hw

end Sys2Proof.Machine

/-! O14 and O18. What a command leaves unchanged, and what each host write can change. -/

namespace Sys2Proof.Machine

section
variable {s t : State} {i : Instr} {tgt : Target}

/-- `SERIALIZE` leaves every byte of WIRE outside its frame (R130). -/
theorem wireByte_storeFrame_out {off a : Nat} (h : a < off ∨ off + (s.paylen.toNat + 4) ≤ a) :
    wireByte (storeFrame off s) a = wireByte s a := by
  rw [← frame_length s (crc16 (frameBody s))] at h
  exact (wireByte_congr rfl rfl a).trans (wireByte_writeWire_out s h)

/-- `PARSE` leaves every byte of PAYLOAD above the payload it loads (R120). -/
theorem payloadByte_loadFrame_out {off cnt a : Nat} (h : cnt - 4 ≤ a) :
    payloadByte (loadFrame off cnt s) a = payloadByte s a := by
  rw [← wireBytes_length s (off + 2) (cnt - 4), ← Nat.zero_add (wireBytes _ _ _).length] at h
  exact (payloadByte_congr rfl rfl a).trans (payloadByte_writePayload_out s (.inr h))

/-- One byte written in WIRE. -/
theorem wireByte_writeWire_single (s : State) (i j : Nat) (v : Byte) :
    wireByte (writeWire i [v] s) j = if j = i then v else wireByte s j := by
  split
  · next h => exact h ▸ wireByte_writeWire_in s j (bs := [v]) (k := 0) Nat.one_pos
  · exact wireByte_writeWire_out s (by simp only [List.length_singleton]; omega)

/-- One byte written in PAYLOAD. -/
theorem payloadByte_writePayload_single (s : State) (i j : Nat) (v : Byte) :
    payloadByte (writePayload i [v] s) j = if j = i then v else payloadByte s j := by
  split
  · next h => exact h ▸ payloadByte_writePayload_in s j (bs := [v]) (k := 0) Nat.one_pos
  · exact payloadByte_writePayload_out s (by simp only [List.length_singleton]; omega)

/-- The registers and memories that a command word with opcode `op` keeps, the table of R39 read by
register. -/
structure KeptByOpcode (op : Nat) (s t : State) : Prop where
  frame : op ∉ [2] → t.station = s.station ∧ t.func = s.func ∧ t.fcrc = s.fcrc
  payload : op ∉ [2, 4] → t.exc = s.exc ∧ t.paylen = s.paylen ∧ t.payload = s.payload
  crcout : op ∉ [1, 3, 5] → t.crcout = s.crcout
  wire : op ∉ [3] → t.len = s.len ∧ t.wire = s.wire
  matched : op ∉ [5] → t.matched = s.matched

theorem commandEffect_kept (i : Instr) (s : State) :
    KeptByOpcode (opcodeOf i) s (commandEffect i s) := by
  cases i <;> constructor <;> simp [opcodeOf, commandEffect, loadFrame, storeFrame, compareCrc]

theorem exec_kept (h : exec i s = .next t) : KeptByOpcode (opcodeOf i) s t := by
  obtain ⟨-, rfl⟩ | ⟨-, e, rfl⟩ := exec_ends h
  · exact { commandEffect_kept i s with }
  · refine ⟨fun _ => ⟨rfl, rfl, rfl⟩, fun _ => ⟨rfl, rfl, rfl⟩, fun _ => rfl, fun _ => ⟨rfl, rfl⟩,
      fun h5 => ?_⟩
    cases i <;> simp [opcodeOf, matchOnFailure] at h5 ⊢

theorem runCommand_kept {w : Word32} (h : runCommand w s = .next t) :
    KeptByOpcode (w.toNat / 2 ^ 24) s t := by
  obtain ⟨i, hw, hi⟩ | ⟨_, -, rfl⟩ := runCommand_cases h
  · exact decode_opcode hw ▸ exec_kept hi
  · exact ⟨fun _ => ⟨rfl, rfl, rfl⟩, fun _ => ⟨rfl, rfl, rfl⟩, fun _ => rfl, fun _ => ⟨rfl, rfl⟩,
      fun _ => rfl⟩

/-- What a host write of `v` to the word `tgt` of the map can change: the word itself, or what the
command in `v` writes. -/
structure ChangedByWrite (v : Word32) (tgt : Target) (s t : State) : Prop where
  station : t.station ≠ s.station → tgt = .station ∨ tgt = .cmd ∧ v.toNat / 2 ^ 24 ∈ [2]
  func : t.func ≠ s.func → tgt = .func ∨ tgt = .cmd ∧ v.toNat / 2 ^ 24 ∈ [2]
  exc : t.exc ≠ s.exc → tgt = .exc ∨ tgt = .cmd ∧ v.toNat / 2 ^ 24 ∈ [2, 4]
  paylen : t.paylen ≠ s.paylen → tgt = .paylen ∨ tgt = .cmd ∧ v.toNat / 2 ^ 24 ∈ [2, 4]
  fcrc : t.fcrc ≠ s.fcrc → tgt = .fcrc ∨ tgt = .cmd ∧ v.toNat / 2 ^ 24 ∈ [2]
  crcout : t.crcout ≠ s.crcout → tgt = .cmd ∧ v.toNat / 2 ^ 24 ∈ [1, 3, 5]
  len : t.len ≠ s.len → tgt = .cmd ∧ v.toNat / 2 ^ 24 ∈ [3]
  err : t.err ≠ s.err → tgt = .cmd
  matched : t.matched ≠ s.matched → tgt = .cmd ∧ v.toNat / 2 ^ 24 ∈ [5]
  errstk : t.errstk ≠ s.errstk → tgt = .cmd ∨ tgt = .status
  wire : ∀ i, wireByte t i ≠ wireByte s i → tgt = .wire i ∨ tgt = .cmd ∧ v.toNat / 2 ^ 24 ∈ [3]
  payload : ∀ i, payloadByte t i ≠ payloadByte s i →
    tgt = .payload i ∨ tgt = .cmd ∧ v.toNat / 2 ^ 24 ∈ [2, 4]

theorem runCommand_changes {w : Word32} (h : runCommand w s = .next t) :
    ChangedByWrite w .cmd s t := by
  obtain ⟨frame, payload, crcout, wire, matched⟩ := runCommand_kept h
  have hep : t.epoch = s.epoch := by
    obtain ⟨i, -, hi⟩ | ⟨_, -, rfl⟩ := runCommand_cases h
    · exact (exec_keeps_environment hi).2.1
    · rfl
  exact {
    station := fun hne => .inr ⟨rfl, by_contra fun hop => hne (frame hop).1⟩
    func := fun hne => .inr ⟨rfl, by_contra fun hop => hne (frame hop).2.1⟩
    exc := fun hne => .inr ⟨rfl, by_contra fun hop => hne (payload hop).1⟩
    paylen := fun hne => .inr ⟨rfl, by_contra fun hop => hne (payload hop).2.1⟩
    fcrc := fun hne => .inr ⟨rfl, by_contra fun hop => hne (frame hop).2.2⟩
    crcout := fun hne => ⟨rfl, by_contra fun hop => hne (crcout hop)⟩
    len := fun hne => ⟨rfl, by_contra fun hop => hne (wire hop).1⟩
    err := fun _ => rfl
    matched := fun hne => ⟨rfl, by_contra fun hop => hne (matched hop)⟩
    errstk := fun _ => .inl rfl
    wire := fun i hne => .inr ⟨rfl, by_contra fun hop => hne (wireByte_congr (wire hop).2 hep i)⟩
    payload := fun i hne =>
      .inr ⟨rfl, by_contra fun hop => hne (payloadByte_congr (payload hop).2.2 hep i)⟩ }

theorem writeTarget_changes {v : Word32} (h : writeTarget v s tgt = .next t) :
    ChangedByWrite v tgt s t := by
  obtain ⟨rfl, hc⟩ | ⟨rfl, rfl⟩ | ⟨rfl, rfl⟩ | ⟨rfl, rfl⟩ | ⟨rfl, rfl⟩ | ⟨rfl, rfl⟩ | ⟨rfl, rfl⟩ |
    ⟨k, rfl, rfl⟩ | ⟨k, rfl, rfl⟩ := writeTarget_cases h
  · exact runCommand_changes hc
  · unfold writeStatus
    split <;> constructor <;> simp [wireByte, payloadByte]
  -- the five frame registers
  iterate 5 constructor <;> simp [wireByte, payloadByte]
  · constructor <;> simp [wireByte_writeWire_single, payloadByte]
  · constructor <;> simp [payloadByte_writePayload_single, wireByte]

end

/-- Settles O14: an error state differs from the state before in `STATUS` alone, and the effect of
each command is its row of the table. -/
theorem commandsWriteOnlyWhatTheTableSays : Obligations.CommandsWriteOnlyWhatTheTableSays := by
  intro i s t h
  obtain ⟨-, rfl⟩ | ⟨-, e, rfl⟩ := exec_ends h
  · refine ⟨fun herr => absurd rfl herr, fun _ => ?_⟩
    cases i with
    | crc16 off cnt => exact ⟨rfl, fun _ => rfl, fun _ => rfl⟩
    | parse off cnt =>
      exact ⟨rfl, fun _ => rfl, fun a ha =>
        (payloadByte_congr rfl rfl a).trans (payloadByte_loadFrame_out (off := off) ha)⟩
    | serialize off =>
      exact ⟨rfl, fun a ha => (wireByte_congr rfl rfl a).trans (wireByte_storeFrame_out ha),
        fun _ => rfl⟩
    | setexc code =>
      exact ⟨rfl, fun _ => rfl, fun a ha => (payloadByte_congr rfl rfl a).trans
        (payloadByte_writePayload_out (bs := [code]) s (.inr ha))⟩
    | check off cnt => exact ⟨rfl, fun _ => rfl, fun _ => rfl⟩
  · exact ⟨fun _ => ⟨rfl, fun _ => rfl, fun _ => rfl⟩, fun herr => absurd herr (errorCode_ne_zero e)⟩

/-- Settles O18: an access that answers is a read, which changes no register and no byte, or a write
of a word of the map, which lies at its own offset. -/
theorem eachRegisterHasItsWriters : Obligations.EachRegisterHasItsWriters := by
  intro s t a rest he hstep writes command
  rw [step_access he] at hstep
  obtain ⟨hwidth, hal, tgt, hmap, ⟨hop, rfl⟩ | ⟨v, hop, hw⟩⟩ := hostAccess_cases hstep
  · simp [wireByte, payloadByte]
  · have hwrites : ∀ u, tgt = u → writes (targetOffset u) := fun u h =>
      ⟨hwidth, h ▸ offset_of_mapTarget hal hmap, by simp [hop]⟩
    have hcommand : ∀ ops, tgt = .cmd ∧ v.toNat / 2 ^ 24 ∈ ops → command ops := fun ops h =>
      ⟨v, hop, hwidth, (hwrites _ h.1).2.1, h.2⟩
    have hc := writeTarget_changes hw
    exact ⟨
      fun h => (hc.station h).imp (hwrites _) (hcommand _),
      fun h => (hc.func h).imp (hwrites _) (hcommand _),
      fun h => (hc.exc h).imp (hwrites _) (hcommand _),
      fun h => (hc.paylen h).imp (hwrites _) (hcommand _),
      fun h => (hc.fcrc h).imp (hwrites _) (hcommand _),
      fun h => hcommand _ (hc.crcout h),
      fun h => hcommand _ (hc.len h),
      fun h => hwrites _ (hc.err h),
      fun h => hcommand _ (hc.matched h),
      fun h => (hc.errstk h).imp (hwrites _) (hwrites _),
      fun i h => (hc.wire i h).imp (hwrites _) (hcommand _),
      fun i h => (hc.payload i h).imp (hwrites _) (hcommand _)⟩

end Sys2Proof.Machine

/-! O23. Host writes and reads of the two memories. -/

namespace Sys2Proof.Machine

section
variable {s : State} {rest : List HostEvent}

/-- A host write of `WIRE[i]` stores the low byte of the word (R60). -/
theorem step_write_wire {i : Nat} {v : Word32} (hi : i < s.cfg.bufSize)
    (he : s.events = .access ⟨.write v, 32, 0x4000 + 4 * i⟩ :: rest) :
    step s = .next (writeWire i [v.extractLsb' 0 8] (setEvents rest s)) :=
  step_write he (by omega) (mapTarget_wire s.cfg hi)

/-- A host write of `PAYLOAD[i]` stores the low byte of the word (R60). -/
theorem step_write_payload {i : Nat} {v : Word32} (hi : i < s.cfg.paySize)
    (he : s.events = .access ⟨.write v, 32, 0x8000 + 4 * i⟩ :: rest) :
    step s = .next (writePayload i [v.extractLsb' 0 8] (setEvents rest s)) :=
  step_write he (by omega) (mapTarget_payload s.cfg hi)

theorem step_read_wire {j : Nat} (hj : j < s.cfg.bufSize)
    (he : s.events = .access ⟨.read, 32, 0x4000 + 4 * j⟩ :: rest) :
    step s = .next (reply ((wireByte s j).setWidth 32) (setEvents rest s)) :=
  step_read he (by omega) (mapTarget_wire s.cfg hj)

theorem step_read_payload {j : Nat} (hj : j < s.cfg.paySize)
    (he : s.events = .access ⟨.read, 32, 0x8000 + 4 * j⟩ :: rest) :
    step s = .next (reply ((payloadByte s j).setWidth 32) (setEvents rest s)) :=
  step_read he (by omega) (mapTarget_payload s.cfg hj)

theorem lowByte_eq_setWidth (v : Word32) : v.extractLsb' 0 8 = v.setWidth 8 :=
  (BitVec.setWidth_eq_extractLsb' (by omega)).symm

@[simp] theorem wireByte_setEvents (es : List HostEvent) (j : Nat) :
    wireByte (setEvents es s) j = wireByte s j := rfl

@[simp] theorem payloadByte_setEvents (es : List HostEvent) (j : Nat) :
    payloadByte (setEvents es s) j = payloadByte s j := rfl

/-- WIRE and PAYLOAD are disjoint (R35). -/
@[simp] theorem payloadByte_writeWire (i j : Nat) (bs : List Byte) :
    payloadByte (writeWire i bs s) j = payloadByte s j := rfl

end

/-- Settles O23: a memory reads at one index as its latest write there, and the other memory is
not touched. -/
theorem readReturnsTheLatestWrite : Obligations.ReadReturnsTheLatestWrite := by
  intro s v rest i j
  refine ⟨fun hi hj he => ?_, fun hi hj he => ?_, fun hi hj he => ?_⟩
  · refine ⟨_, _, step_write_wire hi he, step_read_wire hj rfl, ?_⟩
    simp [wireByte_writeWire_single, lowByte_eq_setWidth, apply_ite (BitVec.setWidth 32)]
  · refine ⟨_, _, step_write_payload hi he, step_read_payload hj rfl, ?_⟩
    simp [payloadByte_writePayload_single, lowByte_eq_setWidth, apply_ite (BitVec.setWidth 32)]
  · exact ⟨_, _, step_write_wire hi he, step_read_payload hj rfl, by simp⟩

end Sys2Proof.Machine

/-! O34, O36 and O41. A frame in the frame registers and the same frame on the wire. -/

namespace Sys2Proof.Machine

section
variable {s t : State}

theorem payloadBytes_congr_below {n : Nat} (h : ∀ k, k < n → payloadByte t k = payloadByte s k) :
    payloadBytes t n = payloadBytes s n :=
  List.map_congr_left fun k hk => h k (List.mem_range.1 hk)

/-- The function byte of a frame, taken apart (R71). -/
@[simp] theorem functionCode_functionByte (e : BitVec 1) (f : BitVec 7) :
    functionCode (functionByte e f) = f := by
  apply BitVec.eq_of_getLsbD_eq
  intro i hi
  have h8 : i < 8 := by omega
  simp [functionCode, functionByte, hi, h8]

@[simp] theorem exceptionFlag_functionByte (e : BitVec 1) (f : BitVec 7) :
    exceptionFlag (functionByte e f) = e := by
  apply BitVec.eq_of_getLsbD_eq
  intro i hi
  obtain rfl : i = 0 := by omega
  simp [exceptionFlag, functionByte]

/-- The CRC bytes, put together again (R72). -/
@[simp] theorem joinCrc_crcLow_crcHigh (c : Word16) : joinCrc (crcLow c) (crcHigh c) = c := by
  apply BitVec.eq_of_getLsbD_eq
  intro i hi
  by_cases h8 : i < 8
  · simp [joinCrc, crcLow, crcHigh, hi, h8]
  · have hhigh : i - 8 < 8 := by omega
    have hsum : 8 + (i - 8) = i := by omega
    simp [joinCrc, crcLow, crcHigh, hi, h8, hhigh, hsum]

/-- `SERIALIZE` of a frame that does not fit in WIRE (R130). -/
theorem exec_serialize_of_misfit {off : Nat} (h : s.cfg.bufSize < off + s.paylen.toNat + 4) :
    exec (.serialize off) s = .next (raiseError .range s) :=
  if_neg fun hf => by have := (rangeFits_iff ..).1 hf; omega

/-- The range just written reads as the bytes written. -/
theorem wireBytes_writeWire_same (s : State) (off : Nat) (bs : List Byte) :
    wireBytes (writeWire off bs s) off bs.length = bs :=
  List.ext_getElem (by simp) fun k _ hk => by
    rw [wireBytes_getElem, wireByte_writeWire_in s off hk]

theorem payloadBytes_writePayload_same (s : State) (bs : List Byte) :
    payloadBytes (writePayload 0 bs s) bs.length = bs :=
  List.ext_getElem (by simp) fun k _ hk => by
    rw [payloadBytes_getElem, ← payloadByte_writePayload_in s 0 hk, Nat.zero_add]

/-- `SERIALIZE` puts the body of the frame held on the wire, then its CRC (R130). -/
theorem wireBytes_storeFrame (off : Nat) (s : State) :
    wireBytes (storeFrame off s) off (s.paylen.toNat + 4) =
      frameBody s ++ crcBytes (crc16 (frameBody s)) := by
  rw [← frame_length s (crc16 (frameBody s))]
  exact (wireBytes_congr rfl rfl _ _).trans (wireBytes_writeWire_same s off _)

/-- `PARSE` loads the payload from the third byte of its range on (R120). -/
theorem payloadBytes_loadFrame (off cnt : Nat) (s : State) :
    payloadBytes (loadFrame off cnt s) (cnt - 4) = wireBytes s (off + 2) (cnt - 4) := by
  have h := payloadBytes_writePayload_same s (wireBytes s (off + 2) (cnt - 4))
  rw [wireBytes_length] at h
  exact (payloadBytes_congr rfl rfl _).trans h

/-- A range that holds the frame of `s` and the CRC `c`, field by field (R70). -/
theorem frame_on_wire {off : Nat} {c : Word16}
    (h : wireBytes t off (s.paylen.toNat + 4) = frameBody s ++ crcBytes c) :
    wireByte t off = s.station ∧ wireByte t (off + 1) = functionByte s.exc s.func ∧
      wireBytes t (off + 2) s.paylen.toNat = payloadBytes s s.paylen.toNat ∧
      receivedCrc t off (s.paylen.toNat + 4) = c := by
  have htwo : ∀ a, wireBytes t a 2 = [wireByte t a, wireByte t (a + 1)] := fun _ => rfl
  rw [show s.paylen.toNat + 4 = 2 + (s.paylen.toNat + 2) by omega, wireBytes_append,
    wireBytes_append, htwo, htwo] at h
  obtain ⟨hstation, hfb, hrest⟩ : _ ∧ _ ∧ _ := by simpa [frameBody] using h
  obtain ⟨hpay, hcrc⟩ := List.append_inj hrest (by simp)
  obtain ⟨hlow, hhigh⟩ : _ ∧ _ := by simpa [crcBytes] using hcrc
  refine ⟨hstation, hfb, hpay, ?_⟩
  rw [receivedCrc, show off + (s.paylen.toNat + 4) - 2 = off + 2 + s.paylen.toNat by omega,
    show off + (s.paylen.toNat + 4) - 1 = off + 2 + s.paylen.toNat + 1 by omega, hlow, hhigh,
    joinCrc_crcLow_crcHigh]

/-- The four fields of a frame that PAYLOAD can hold (R27). -/
theorem heldFrame4_of_le (h : s.paylen.toNat ≤ s.cfg.paySize) :
    heldFrame4 s = some { station := s.station, function := s.func, isException := s.exc == 1#1,
                          payload := payloadBytes s s.paylen.toNat } := by
  simp [heldFrame4, heldFrame, h]

/-- Parsing a range that holds the frame of `s` loads the fields of `s`, and the CRC carried. -/
theorem heldFrame4_loadFrame {off : Nat} {c : Word16} (hcfg : t.cfg = s.cfg)
    (hs : s.paylen.toNat ≤ s.cfg.paySize)
    (h : wireBytes t off (s.paylen.toNat + 4) = frameBody s ++ crcBytes c) :
    heldFrame4 (loadFrame off (s.paylen.toNat + 4) t) = heldFrame4 s ∧
      (loadFrame off (s.paylen.toNat + 4) t).fcrc = c := by
  obtain ⟨hstation, hfb, hpay, hcrc⟩ := frame_on_wire h
  refine ⟨?_, hcrc⟩
  have hpaylen : (loadFrame off (s.paylen.toNat + 4) t).paylen = s.paylen := by
    simp [loadFrame]
  rw [heldFrame4_of_le hs, heldFrame4_of_le (by rw [hpaylen]; exact hcfg ▸ hs), hpaylen]
  have hload := (payloadBytes_loadFrame off (s.paylen.toNat + 4) t).trans hpay
  rw [Nat.add_sub_cancel] at hload
  rw [hload]
  simp [loadFrame, hstation, hfb]

/-- What a `SERIALIZE` that fits leaves for the commands after it (R130). -/
theorem exec_serialize_of_fits {off : Nat} (hfit : off + s.paylen.toNat + 4 ≤ s.cfg.bufSize) :
    ∃ t, exec (.serialize off) s = .next t ∧ t.cfg = s.cfg ∧ t.crcout = crc16 (frameBody s) ∧
      t.len.toNat = s.paylen.toNat + 4 ∧
      wireBytes t off (s.paylen.toNat + 4) = frameBody s ++ crcBytes (crc16 (frameBody s)) :=
  ⟨_, exec_of_fits (i := .serialize off) hfit, rfl, rfl,
    toNat_ofNat_frameLength s.cfg (by omega), wireBytes_storeFrame off s⟩

theorem frameConsistent_iff : frameConsistent s = true ↔ s.fcrc = crc16 (frameBody s) :=
  beq_iff_eq

end

/-- Settles O34: the frame stored is read from PAYLOAD below `PAYLEN` alone. -/
theorem serializeIgnoresBytesAboveTheFrame : Obligations.SerializeIgnoresBytesAboveTheFrame := by
  intro off s t m hm h
  obtain ⟨hfit, rfl⟩ | ⟨hmisfit, rfl⟩ := execSerialize_cases h
  · have hbody : frameBody { s with payload := m } = frameBody s := by
      simp only [frameBody, payloadBytes_congr_below hm]
    rw [exec_of_fits (i := .serialize off) (s := { s with payload := m }) hfit]
    simp only [commandEffect, storeFrame, hbody]
    rfl
  · exact exec_serialize_of_misfit (s := { s with payload := m }) hmisfit

/-- Settles O36: the range that `SERIALIZE` leaves holds the frame, and `PARSE` loads it. -/
theorem parseOfSerializeIsTheFrame : Obligations.ParseOfSerializeIsTheFrame := by
  intro off s hfit
  obtain ⟨t, ht, hcfg, hcrc, hlen, hwire⟩ := exec_serialize_of_fits hfit
  have hp := paySize_add_four s.cfg
  have hs : s.paylen.toNat ≤ s.cfg.paySize := by omega
  have hparse : commandFits (.parse off (s.paylen.toNat + 4)) t :=
    ⟨by omega, by rw [hcfg]; omega⟩
  obtain ⟨hframe, hfcrc⟩ := heldFrame4_loadFrame hcfg hs hwire
  refine ⟨t, succeed (loadFrame off (s.paylen.toNat + 4) t), _, ht, ?_, rfl, heldFrame4_of_le hs,
    hframe.trans (heldFrame4_of_le hs), hfcrc.trans hcrc.symm, ?_⟩
  · rw [hlen]
    exact exec_of_fits hparse
  · rw [frameConsistent_iff, succeed_fcrc, hfcrc, eq_comm]

/-- Settles O41: the frame held after `SETEXC` has the one payload byte `code`. -/
theorem exceptionFrameOnTheWire : Obligations.ExceptionFrameOnTheWire := by
  intro off code s hfit body
  have hbody : frameBody (succeed (commandEffect (.setexc code) s)) = body :=
    congrArg (fun bs => s.station :: functionByte 1#1 s.func :: bs)
      (payloadBytes_writePayload_same (setExc 1#1 s) [code])
  obtain ⟨u, hu, -, -, hlen, hwire⟩ :=
    exec_serialize_of_fits (s := succeed (commandEffect (.setexc code) s)) (off := off) hfit
  refine ⟨_, u, exec_of_fits (i := .setexc code) trivial, rfl, hu, BitVec.eq_of_toNat_eq hlen, ?_⟩
  rw [hbody] at hwire
  exact hwire

end Sys2Proof.Machine

/-! O21 and O46. What a command answers in every state, which accesses are answered, and the run of
the host's list one access at a time. -/

namespace Sys2Proof.Machine

section
variable {s t : State} {i : Instr} {off : Nat} {tgt : Target} {a : HostAccess} {e : HostEvent}
  {rest : List HostEvent} {v : Word32}

/-- The error of a command on a frame in WIRE: the length is judged before the range (R205). -/
def frameRangeError (cnt : Nat) : CmdError := if cnt < 4 then .short else .range

/-- The error of a command that is not carried out. -/
def commandError : Instr → CmdError
  | .parse _ cnt => frameRangeError cnt
  | .check _ cnt => frameRangeError cnt
  | _ => .range

/-- The two tests that `PARSE` and `CHECK` make of their range, on a range that fails one. -/
theorem frameRange_misfits {cnt : Nat} {answer : CmdError → State}
    {ok : Host.Outcome State Fault Refusal} (h : ¬ (4 ≤ cnt ∧ off + cnt ≤ s.cfg.bufSize)) :
    (if tooShort cnt then .next (answer .short)
      else if rangeFits s off cnt then ok else .next (answer .range)) =
      .next (answer (frameRangeError cnt)) := by
  simp only [tooShort_iff, rangeFits_iff, frameRangeError]
  by_cases hs : cnt < 4
  · rw [if_pos hs, if_pos hs]
  · rw [if_neg hs, if_neg hs, if_neg fun hr => h ⟨Nat.not_lt.1 hs, hr⟩]

/-- A command that does not fit ends with its error; with `exec_of_fits`, what every command answers
in every state. -/
theorem exec_of_misfit (h : ¬ commandFits i s) :
    exec i s = .next (raiseError (commandError i) (setMatched (matchOnFailure i s) s)) := by
  cases i with
  | crc16 off cnt => exact if_neg fun hr => h ((rangeFits_iff ..).1 hr)
  | parse off cnt => exact frameRange_misfits (answer := fun e => raiseError e s) h
  | serialize off => exact exec_serialize_of_misfit (Nat.not_le.1 h)
  | setexc code => exact absurd trivial h
  | check off cnt => exact frameRange_misfits (answer := fun e => failCheck e s) h

/-- Every command completes (R235). -/
theorem exec_answers (i : Instr) (s : State) : ∃ t, exec i s = .next t := by
  by_cases h : commandFits i s
  · exact ⟨_, exec_of_fits h⟩
  · exact ⟨_, exec_of_misfit h⟩

/-- Every word written to `CMD` completes, an illegal one included (R203). -/
theorem runCommand_answers (w : Word32) (s : State) : ∃ t, runCommand w s = .next t := by
  cases hw : decode w with
  | command i => exact runCommand_of_decode hw ▸ exec_answers i s
  | illegal e => exact ⟨raiseError .illegal s, by simp [runCommand, hw]⟩

theorem writeTarget_answers (v : Word32) (s : State) (h : readOnly tgt = false) :
    ∃ t, writeTarget v s tgt = .next t := by
  cases tgt with
  | cmd => exact runCommand_answers v s
  | crcout | len | cap => cases h
  | _ => exact ⟨_, rfl⟩

theorem writeTarget_readOnly (v : Word32) (s : State) (h : readOnly tgt = true) :
    writeTarget v s tgt = .fault (.hostFault .readOnly) := by
  cases tgt with
  | crcout | len | cap => rfl
  | _ => cases h

/-- None of the four cases of R57 applies. -/
theorem admits_iff {cfg : Config} : admits cfg a = true ↔
    a.width = 32 ∧ a.offset % 4 = 0 ∧ ∃ tgt, mapTarget cfg a.offset = some tgt ∧
      ∀ v, a.op = .write v → readOnly tgt = false := by
  cases hmap : mapTarget cfg a.offset <;> cases hop : a.op <;>
    simp [admits, hmap, hop, and_assoc]

theorem hostAccess_answers (h : admits s.cfg a = true) : ∃ t, hostAccess a s = .next t := by
  obtain ⟨hwidth, hal, tgt, hmap, hwritable⟩ := admits_iff.1 h
  cases hop : a.op with
  | read => exact ⟨reply (readTarget s tgt) s, by simp [hostAccess, hwidth, hal, hmap, hop]⟩
  | write v =>
    simpa [hostAccess, hwidth, hal, hmap, hop] using writeTarget_answers v s (hwritable v hop)

theorem hostAccess_refuses (h : ¬ admits s.cfg a = true) :
    ∃ c, hostAccess a s = .fault (.hostFault c) := by
  rw [admits_iff] at h
  by_cases hwidth : a.width = 32
  · by_cases hal : a.offset % 4 = 0
    · cases hmap : mapTarget s.cfg a.offset with
      | none => exact ⟨.unmapped, by simp [hostAccess, hwidth, hal, hmap]⟩
      | some tgt =>
        obtain ⟨v, hop, hro⟩ : ∃ v, a.op = .write v ∧ readOnly tgt = true := by
          simpa [hwidth, hal, hmap] using h
        exact ⟨.readOnly, by
          simp [hostAccess, hwidth, hal, hmap, hop, writeTarget_readOnly v s hro]⟩
    · exact ⟨.alignment, by simp [hostAccess, hwidth, hal]⟩
  · exact ⟨.width, by simp [hostAccess, hwidth]⟩

theorem mem_registerMap_of_lookup (h : registerMap.lookup off = some tgt) :
    (off, tgt) ∈ registerMap := by
  obtain ⟨l₁, l₂, hl, -⟩ := List.lookup_eq_some_iff.1 h
  simp [hl]

/-- The offsets that the map has (R58): the named registers, and one word per byte of each memory. -/
theorem mapTarget_isSome_iff (cfg : Config) (off : Nat) :
    (∃ tgt, mapTarget cfg off = some tgt) ↔
      off ∈ registerMap.map Prod.fst ∨ (0x4000 ≤ off ∧ off < 0x4000 + 4 * cfg.bufSize) ∨
        (0x8000 ≤ off ∧ off < 0x8000 + 4 * cfg.paySize) := by
  have hbuf := cfg.bufSize_le
  have hpay := paySize_add_four cfg
  constructor
  · rintro ⟨tgt, h⟩
    unfold mapTarget at h
    split_ifs at h with h1 h2 hw h3 hp
    · exact .inl (List.mem_map_of_mem (f := Prod.fst) (mem_registerMap_of_lookup h))
    · omega
    · omega
  · rintro (h | h | h)
    · obtain ⟨⟨_, tgt⟩, hrow, rfl⟩ := List.mem_map.1 h
      exact ⟨tgt, mapTarget_register cfg hrow⟩
    · refine ⟨.wire ((off - 0x4000) / 4), ?_⟩
      rw [mapTarget, if_neg (by omega), if_pos (by omega), if_pos (by omega)]
    · refine ⟨.payload ((off - 0x8000) / 4), ?_⟩
      rw [mapTarget, if_neg (by omega), if_neg (by omega), if_pos (by omega), if_pos (by omega)]

/-- The words that the host may not write, by their offsets (R57 (d)). -/
theorem readOnly_iff (tgt : Target) :
    readOnly tgt = true ↔ targetOffset tgt ∈ [0x0008, 0x000C, 0x0024] := by
  cases tgt with
  | wire i | payload i => simp [readOnly, targetOffset]; omega
  | _ => decide

theorem writeTarget_keeps_events (h : writeTarget v s tgt = .next t) : t.events = s.events := by
  obtain ⟨-, hc⟩ | ⟨-, rfl⟩ | ⟨-, rfl⟩ | ⟨-, rfl⟩ | ⟨-, rfl⟩ | ⟨-, rfl⟩ | ⟨-, rfl⟩ | ⟨k, -, rfl⟩ |
    ⟨k, -, rfl⟩ := writeTarget_cases h
  · obtain ⟨i, -, hi⟩ | ⟨_, -, rfl⟩ := runCommand_cases hc
    · exact (exec_keeps_environment hi).2.2.1
    · rfl
  · unfold writeStatus; split <;> rfl
  all_goals rfl

/-- A step takes one entry of the host's list, and no more (R61). -/
theorem step_takes_event (he : s.events = e :: rest) (h : step s = .next t) : t.events = rest := by
  obtain ⟨hnil, -⟩ | ⟨r, hr, rfl⟩ | ⟨a, r, hr, ha⟩ := step_cases h
  · cases he.symm.trans hnil
  · cases he.symm.trans hr
    rfl
  · cases he.symm.trans hr
    obtain ⟨-, -, tgt, -, ⟨-, rfl⟩ | ⟨v, -, hw⟩⟩ := hostAccess_cases ha
    · rfl
    · exact writeTarget_keeps_events hw

/-- A step is taken exactly when the map admits the next entry of the host's list (R57, R230). -/
theorem step_answers_iff (he : s.events = e :: rest) :
    (∃ t, step s = .next t) ↔ admitsEvent s.cfg e = true := by
  cases e with
  | reset => simp [step, he, takeEvent, admitsEvent]
  | access a =>
    rw [step_access he]
    refine ⟨fun ⟨t, ht⟩ => by_contra fun hadm => ?_, hostAccess_answers (s := setEvents rest s)⟩
    obtain ⟨c, hc⟩ := hostAccess_refuses (s := setEvents rest s) hadm
    simp [hc] at ht

/-- A run of a list is a step and a run of what is left of the list. -/
theorem runEnds_cons (he : s.events = e :: rest) :
    RunEnds s t ↔ ∃ s', step s = .next s' ∧ RunEnds s' t := by
  rw [RunEnds, he, List.length_cons]
  cases hstep : step s with
  | next s' => simp [run_next _ hstep, RunEnds, step_takes_event he hstep]
  | fault f => simp [run_fault _ hstep]
  | refused r => simp [run_refused _ hstep]

/-- With an empty list the run is over. -/
theorem runEnds_nil (he : s.events = []) : RunEnds s t ↔ s = t := by
  rw [RunEnds, he, List.length_nil, run_zero]
  exact ⟨Host.Outcome.next.inj, congrArg Host.Outcome.next⟩

theorem goodRun_iff (s : State) : GoodRun s ↔ ∀ e ∈ s.events, admitsEvent s.cfg e = true := by
  induction hes : s.events generalizing s with
  | nil => simp [GoodRun, runEnds_nil hes]
  | cons e rest ih =>
    have hrest : ∀ s', step s = .next s' → (GoodRun s' ↔ ∀ e ∈ rest, admitsEvent s.cfg e = true) :=
      fun s' h => step_keeps_cfg h ▸ ih s' (step_takes_event hes h)
    calc GoodRun s
      _ ↔ ∃ s', step s = .next s' ∧ GoodRun s' := by
        simp only [GoodRun, runEnds_cons hes]
        exact ⟨fun ⟨t, s', h, hr⟩ => ⟨s', h, t, hr⟩, fun ⟨s', h, t, hr⟩ => ⟨t, s', h, hr⟩⟩
      _ ↔ (∃ s', step s = .next s') ∧ ∀ e ∈ rest, admitsEvent s.cfg e = true :=
        ⟨fun ⟨s', h, hg⟩ => ⟨⟨s', h⟩, (hrest s' h).1 hg⟩,
          fun ⟨⟨s', h⟩, hadm⟩ => ⟨s', h, (hrest s' h).2 hadm⟩⟩
      _ ↔ ∀ e' ∈ e :: rest, admitsEvent s.cfg e' = true := by
        rw [step_answers_iff hes, List.forall_mem_cons]

theorem runEnds_takes_all (h : RunEnds s t) : t.events = [] := by
  induction hes : s.events generalizing s with
  | nil => exact (runEnds_nil hes).1 h ▸ hes
  | cons e rest ih =>
    obtain ⟨s', hstep, hrun⟩ := (runEnds_cons hes).1 h
    exact ih hrun (step_takes_event hes hstep)

theorem registerMap_aligned : ∀ row ∈ registerMap, row.1 % 4 = 0 := by decide

/-- A read of a named register, at its offset (R58, R59). -/
theorem step_read_register (s : State) (rest : List HostEvent) (h : (off, tgt) ∈ registerMap) :
    step { s with events := .access ⟨.read, 32, off⟩ :: rest } =
      .next (reply (readTarget s tgt) (setEvents rest s)) := by
  have hstep := step_read (s := setEvents (.access ⟨.read, 32, off⟩ :: rest) s) rfl
    (registerMap_aligned _ h) (mapTarget_register s.cfg h)
  rwa [readTarget_setEvents] at hstep

end

/-- Settles O21: the four cases of R57 are those that `admits` leaves out. -/
theorem hostFaultExactlyOutsideTheMap : Obligations.HostFaultExactlyOutsideTheMap := by
  refine ⟨?_,
    fun s rest => step_read_register s rest (tgt := .cmd) (by decide)⟩
  intro s a rest he mapped refused
  have hmapped : (∃ tgt, mapTarget s.cfg a.offset = some tgt) ↔ mapped :=
    mapTarget_isSome_iff s.cfg a.offset
  have hrefused : ¬ admits s.cfg a = true ↔ refused := by
    rw [admits_iff]
    constructor
    · intro hadm
      by_contra href
      simp only [refused, not_or, not_not, ne_eq] at href
      obtain ⟨hwidth, hal, hm, hro⟩ := href
      obtain ⟨tgt, hmap⟩ := hmapped.2 hm
      refine hadm ⟨hwidth, hal, tgt, hmap, fun v hop => ?_⟩
      rw [← Bool.not_eq_true, readOnly_iff, ← offset_of_mapTarget hal hmap]
      exact fun hoff => hro ⟨⟨v, hop⟩, hoff⟩
    · rintro href ⟨hwidth, hal, tgt, hmap, hwritable⟩
      obtain h | h | h | ⟨⟨v, hop⟩, hoff⟩ := href
      · exact h hwidth
      · exact h hal
      · exact h (hmapped.1 ⟨tgt, hmap⟩)
      · rw [offset_of_mapTarget hal hmap, ← readOnly_iff, hwritable v hop] at hoff
        cases hoff
  rw [← hrefused, not_not, step_access he]
  exact ⟨hostAccess_refuses (s := setEvents rest s), hostAccess_answers (s := setEvents rest s)⟩

/-- Settles O46, by induction on the host's list. -/
theorem goodRunExactlyWhenEveryAccessIsAdmitted :
    Obligations.GoodRunExactlyWhenEveryAccessIsAdmitted :=
  ⟨goodRun_iff, fun _ _ => runEnds_takes_all⟩

end Sys2Proof.Machine

/-! O19 and O20. Host reads and writes of the words of the map. -/

namespace Sys2Proof.Machine

section
variable {s t : State} {off : Nat} {tgt : Target} {rest : List HostEvent}

/-- The `STATUS` word as a number (R30). -/
theorem statusWord_eq (s : State) : statusWord s = BitVec.ofNat 32
    (s.err.toNat + (if s.matched then 16 else 0) + (if s.errstk then 32 else 0)) := by
  have hbits : ∀ (e : BitVec 4) (m k : Bool), 0#26 ++ BitVec.ofBool k ++ BitVec.ofBool m ++ e =
      BitVec.ofNat 32 (e.toNat + (if m then 16 else 0) + (if k then 32 else 0)) := by decide
  exact hbits s.err s.matched s.errstk

/-- Reading a word of the map does not depend on the values read before (R59). -/
@[simp] theorem readTarget_reply (v : Word32) (s : State) (tgt : Target) :
    readTarget (reply v s) tgt = readTarget s tgt := by
  cases tgt <;> rfl

/-- All that a step that finds a host read can do. -/
theorem step_read_cases {width : Nat} (he : s.events = .access ⟨.read, width, off⟩ :: rest)
    (h : step s = .next t) : ∃ tgt, mapTarget s.cfg off = some tgt ∧
      t = reply (readTarget s tgt) (setEvents rest s) := by
  rw [step_access he] at h
  obtain ⟨-, -, tgt, hmap, ⟨-, rfl⟩ | ⟨v, hop, -⟩⟩ := hostAccess_cases h
  · exact ⟨tgt, hmap, by rw [readTarget_setEvents]⟩
  · cases hop

/-- A write of a named register, at its offset (R58, R60). -/
theorem step_write_register (s : State) (v : Word32) (rest : List HostEvent)
    (h : (off, tgt) ∈ registerMap) :
    step { s with events := .access ⟨.write v, 32, off⟩ :: rest } =
      writeTarget v (setEvents rest s) tgt := by
  exact step_write (s := setEvents (.access ⟨.write v, 32, off⟩ :: rest) s) rfl
    (registerMap_aligned _ h) (mapTarget_register s.cfg h)

theorem writeStatus_eq (v : Word32) (s : State) :
    writeStatus v s = { s with errstk := if v.getLsbD 5 then false else s.errstk } := by
  unfold writeStatus
  split <;> rfl

end

/-- Settles O19: the table of R59 is `readTarget` along the register map, and a reply changes nothing
that a read depends on. -/
theorem hostReadReturnsTheRegister : Obligations.HostReadReturnsTheRegister := by
  refine ⟨fun s rest off v h => ?_, fun s t u rest off he hst htu => ?_⟩
  · rw [← statusWord_eq] at h
    obtain h | ⟨i, hi, rfl, rfl⟩ | ⟨i, hi, rfl, rfl⟩ := h
    · obtain ⟨⟨off', tgt⟩, hrow, heq⟩ :=
        (List.mem_map (f := fun row => (row.1, readTarget s row.2)) (l := registerMap)).1 h
      cases heq
      exact step_read_register s rest hrow
    · exact step_read_wire (s := setEvents (.access ⟨.read, 32, _⟩ :: rest) s) hi rfl
    · exact step_read_payload (s := setEvents (.access ⟨.read, 32, _⟩ :: rest) s) hi rfl
  · obtain ⟨tgt, hmap, rfl⟩ := step_read_cases he hst
    obtain ⟨tgt', hmap', rfl⟩ := step_read_cases (rest := rest) rfl htu
    obtain rfl : tgt = tgt' := Option.some.inj (hmap.symm.trans hmap')
    refine ⟨readTarget s tgt, ?_⟩
    rw [readTarget_reply, readTarget_setEvents]
    simp [reply, setEvents]

/-- Settles O20: each offset finds its word of the map, and `writeTarget` is one update of it. -/
theorem hostWriteStoresTheLowBits : Obligations.HostWriteStoresTheLowBits := by
  intro s v rest write s'
  have register {off : Nat} {tgt : Target} (h : (off, tgt) ∈ registerMap) :
      write off = writeTarget v s' tgt := step_write_register s v rest h
  simp only [BitVec.setWidth_eq_extractLsb', Nat.reduceLeDiff]
  refine ⟨register (tgt := .station) (by decide), register (tgt := .func) (by decide),
    register (tgt := .exc) (by decide), register (tgt := .paylen) (by decide),
    register (tgt := .fcrc) (by decide), fun i hi => ?_, fun i hi => ?_, ?_, fun i hi => ?_⟩
  · have hstep := step_write_wire (s := setEvents (.access ⟨.write v, 32, _⟩ :: rest) s) hi rfl
    refine ⟨_, hstep, rfl, ?_, fun j hj => ?_⟩
    · rw [wireByte_writeWire_single, if_pos rfl]
    · rw [wireByte_writeWire_single, if_neg hj]; rfl
  · have hstep := step_write_payload (s := setEvents (.access ⟨.write v, 32, _⟩ :: rest) s) hi rfl
    refine ⟨_, hstep, rfl, ?_, fun j hj => ?_⟩
    · rw [payloadByte_writePayload_single, if_pos rfl]
    · rw [payloadByte_writePayload_single, if_neg hj]; rfl
  · rw [register (tgt := .status) (by decide)]
    exact congrArg Host.Outcome.next (writeStatus_eq v s')
  · rw [register (tgt := .cmd) (by decide)]
    exact runCommand_of_decode hi

end Sys2Proof.Machine

/-! O40. Writing what a memory already holds, and a command repeated. -/

namespace Sys2Proof.Machine

section
variable {s t : State} {i : Instr} {m : Memory} {bs : List Byte} {a : Nat}

/-- In a canonical memory, writing the bytes that a range already lists changes nothing. -/
theorem memSetBytes_of_memGet (h : Memory.wf m)
    (hg : ∀ k (hk : k < bs.length), memGet m (a + k) = some bs[k]) : memSetBytes m a bs = m := by
  induction bs generalizing a with
  | nil => rfl
  | cons v bs ih =>
    have hhead : memSet m a v = m := memSet_of_memGet h (hg 0 (by simp))
    rw [memSetBytes, hhead]
    refine ih fun k hk => ?_
    rw [Nat.add_assoc, Nat.add_comm 1 k]
    exact hg (k + 1) (by simpa using hk)

/-- Writing the same bytes to the same range twice is writing them once. -/
theorem memSetBytes_idempotent (h : Memory.wf m) (a : Nat) (bs : List Byte) :
    memSetBytes (memSetBytes m a bs) a bs = memSetBytes m a bs := by
  refine memSetBytes_of_memGet (memSetBytes_wf h a bs) fun k hk => ?_
  rw [memGet_memSetBytes, if_pos (by omega), Nat.add_sub_cancel_left, List.getElem?_eq_getElem hk]

/-- Whether a command fits depends on `BUF_SIZE`, and for `SERIALIZE` on `PAYLEN`. -/
theorem commandFits_congr (hcfg : t.cfg = s.cfg) (hpaylen : opcodeOf i = 3 → t.paylen = s.paylen) :
    commandFits i t ↔ commandFits i s := by
  cases i with
  | serialize off => simp [commandFits, hcfg, hpaylen rfl]
  | _ => simp [commandFits, hcfg]

/-- No command changes whether it fits: `SERIALIZE`, which asks for `PAYLEN`, keeps it (R39). -/
theorem commandFits_after_exec (h : exec i s = .next t) : commandFits i t ↔ commandFits i s :=
  commandFits_congr (exec_keeps_environment h).1
    fun hop => ((exec_kept h).payload (by simp [hop])).2.1

/-- The bytes, the CRC and the length of a stored frame, stored again. -/
theorem storeBytes_idempotent (h : Memory.wf s.wire) (off : Nat) (bs : List Byte) (c : Word16)
    (n : BitVec 12) :
    succeed (setLen n (setCrcout c (writeWire off bs
      (succeed (setLen n (setCrcout c (writeWire off bs s))))))) =
      succeed (setLen n (setCrcout c (writeWire off bs s))) :=
  congrArg (fun m => { succeed (setLen n (setCrcout c s)) with wire := m })
    (memSetBytes_idempotent h off bs)

/-- A comparison made again, with the same outcome. -/
theorem compareCrc_idempotent (c r : Word16) (s : State) :
    succeed (compareCrc c r (setCrcout c (succeed (compareCrc c r (setCrcout c s))))) =
      succeed (compareCrc c r (setCrcout c s)) := rfl

/-- `SERIALIZE` reads the registers of the frame and PAYLOAD, and writes none of them. -/
theorem frameBody_after_serialize (off : Nat) (s : State) :
    frameBody (succeed (storeFrame off s)) = frameBody s := by
  have hpayload : (succeed (storeFrame off s)).payload = s.payload := by simp [storeFrame]
  have hepoch : (succeed (storeFrame off s)).epoch = s.epoch := by simp [storeFrame]
  simp only [frameBody, payloadBytes_congr hpayload hepoch]
  simp [storeFrame]

theorem serializeEffect_idempotent (h : Memory.wf s.wire) (off : Nat) :
    succeed (storeFrame off (succeed (storeFrame off s))) = succeed (storeFrame off s) := by
  have hpaylen : (succeed (storeFrame off s)).paylen = s.paylen := by simp [storeFrame]
  rw [storeFrame, frameBody_after_serialize, hpaylen]
  exact storeBytes_idempotent h off _ _ _

/-- `CHECK` reads WIRE alone, and does not write it. -/
theorem checkEffect_idempotent (off cnt : Nat) (s : State) :
    let t := succeed (commandEffect (.check off cnt) s)
    succeed (commandEffect (.check off cnt) t) = t := by
  intro t
  have hwire : t.wire = s.wire := by simp [t, commandEffect, compareCrc]
  have hepoch : t.epoch = s.epoch := by simp [t, commandEffect, compareCrc]
  rw [commandEffect, receivedCrc, wireBytes_congr hwire hepoch, wireByte_congr hwire hepoch,
    wireByte_congr hwire hepoch]
  exact compareCrc_idempotent _ (receivedCrc s off cnt) s

/-- No command reads what it writes, so the effect of a command on the state that it left writes the
same values again. -/
theorem commandEffect_idempotent (h : Inv s) (i : Instr) :
    succeed (commandEffect i (succeed (commandEffect i s))) = succeed (commandEffect i s) := by
  cases i with
  | crc16 off cnt => rfl
  | parse off cnt =>
    exact congrArg (fun m => { succeed (loadFrame off cnt s) with payload := m })
      (memSetBytes_idempotent h.payload_wf 0 (wireBytes s (off + 2) (cnt - 4)))
  | serialize off => exact serializeEffect_idempotent h.wire_wf off
  | setexc code =>
    exact congrArg (fun m => { succeed (commandEffect (.setexc code) s) with payload := m })
      (memSetBytes_idempotent h.payload_wf 0 [code])
  | check off cnt => exact checkEffect_idempotent off cnt s

/-- An error leaves what it would leave again. -/
theorem commandError_idempotent (e : CmdError) (i : Instr) (s : State) :
    let t := raiseError e (setMatched (matchOnFailure i s) s)
    raiseError e (setMatched (matchOnFailure i t) t) = t := by
  cases i <;> rfl

end

/-- Settles O40: a command fits again where it fitted, and then leaves what it left. -/
theorem commandsAreIdempotent : Obligations.CommandsAreIdempotent := by
  intro i s t hinv h
  have hagain := commandFits_after_exec h
  by_cases hfit : commandFits i s
  · obtain rfl : succeed (commandEffect i s) = t := by simpa [exec_of_fits hfit] using h
    rw [exec_of_fits (hagain.2 hfit), commandEffect_idempotent hinv]
  · obtain rfl : raiseError (commandError i) (setMatched (matchOnFailure i s) s) = t := by
      simpa [exec_of_misfit hfit] using h
    rw [exec_of_misfit (hagain.not.2 hfit), commandError_idempotent]

end Sys2Proof.Machine

/-! O1 to O5. A command word by its fields, which fields select which command (R85), and the words
that select none (R86). -/

namespace Sys2Proof.Machine

section
variable {w : Word32} {i : Instr}

/-! The fields of a word (R80). -/

theorem bField_toNat (w : Word32) : (bField w).toNat = w.toNat / 2 ^ 12 % 2 ^ 12 := by
  rw [bField, BitVec.extractLsb'_toNat, Nat.shiftRight_eq_div_pow]

theorem aField_toNat (w : Word32) : (aField w).toNat = w.toNat % 2 ^ 12 := by
  rw [aField, BitVec.extractLsb'_toNat, Nat.shiftRight_zero]

/-- A word is its three fields put together. -/
theorem commandWord_fields (w : Word32) : commandWord (opField w) (bField w) (aField w) = w := by
  apply BitVec.eq_of_toNat_eq
  rw [commandWord_toNat, opField_toNat, bField_toNat, aField_toNat]
  omega

/-- Two words are equal when their fields are. -/
theorem word_eq_iff_fields {v : Word32} :
    w = v ↔ opField w = opField v ∧ bField w = bField v ∧ aField w = aField v := by
  refine ⟨fun h => h ▸ ⟨rfl, rfl, rfl⟩, fun ⟨hop, hb, ha⟩ => ?_⟩
  rw [← commandWord_fields w, hop, hb, ha, commandWord_fields]

/-- An operand that fits its field is the number the field holds (R81). -/
theorem toNat_ofNat_of_fits12 {n : Nat} (h : fits12 n = true) : (BitVec.ofNat 12 n).toNat = n :=
  Nat.mod_eq_of_lt (of_decide_eq_true h)

@[simp] theorem fits12_toNat (x : BitVec 12) : fits12 x.toNat = true := decide_eq_true x.isLt

/-- Field `a` holds a code byte: bits 11:8 are zero and bits 7:0 are the code (R82). -/
theorem eq_setWidth_code_iff (a : BitVec 12) (code : Byte) :
    a = code.setWidth 12 ↔ a.extractLsb' 8 4 = 0#4 ∧ a.extractLsb' 0 8 = code := by
  have := a.isLt
  have := code.isLt
  simp only [← BitVec.toNat_inj, BitVec.extractLsb'_toNat, BitVec.toNat_setWidth,
    BitVec.toNat_ofNat, Nat.shiftRight_eq_div_pow]
  omega

/-! The decoder, inverted. -/

/-- The command that a word selects, one case per row of R85. -/
inductive SelectsCommand (w : Word32) : Instr → Prop
  /-- `CRC16 a, b`. -/
  | crc16 {off cnt : Nat} (op : opField w = 0x01#8) (a : (aField w).toNat = off)
    (b : (bField w).toNat = cnt) : SelectsCommand w (.crc16 off cnt)
  /-- `PARSE a, b`. -/
  | parse {off cnt : Nat} (op : opField w = 0x02#8) (a : (aField w).toNat = off)
    (b : (bField w).toNat = cnt) : SelectsCommand w (.parse off cnt)
  /-- `SERIALIZE a`, with `b` zero. -/
  | serialize {off : Nat} (op : opField w = 0x03#8) (a : (aField w).toNat = off)
    (b : bField w = 0#12) : SelectsCommand w (.serialize off)
  /-- `SETEXC a[7:0]`, with the bits above the code zero. -/
  | setexc {code : Byte} (op : opField w = 0x04#8) (a : aField w = code.setWidth 12)
    (b : bField w = 0#12) : SelectsCommand w (.setexc code)
  /-- `CHECK a, b`. -/
  | check {off cnt : Nat} (op : opField w = 0x05#8) (a : (aField w).toNat = off)
    (b : (bField w).toNat = cnt) : SelectsCommand w (.check off cnt)

/-- The decoder answers the command that the word selects, and no other. -/
theorem decode_eq_command_iff : decode w = .command i ↔ SelectsCommand w i := by
  constructor
  · intro h
    simp only [decode] at h
    split_ifs at h with h1 h2 h3 hb h4 hba h5 <;> cases h
    · exact .crc16 h1 rfl rfl
    · exact .parse h2 rfl rfl
    · exact .serialize h3 rfl hb
    · exact .setexc h4 ((eq_setWidth_code_iff ..).2 ⟨hba.2, rfl⟩) hba.1
    · exact .check h5 rfl rfl
  · rintro (⟨op, a, b⟩ | ⟨op, a, b⟩ | ⟨op, a, b⟩ | ⟨op, a, b⟩ | ⟨op, a, b⟩)
    case setexc code =>
      obtain ⟨hhigh, hcode⟩ := (eq_setWidth_code_iff ..).1 a
      simp [decode, op, b, hhigh, hcode]
    all_goals simp [decode, op, a, b]

/-- Operands that fit are read back from the word they are put in. -/
theorem operands_commandWord {off cnt : Nat} (op : BitVec 8)
    (h : (fits12 off && fits12 cnt) = true) :
    (aField (commandWord op (BitVec.ofNat 12 cnt) (BitVec.ofNat 12 off))).toNat = off ∧
      (bField (commandWord op (BitVec.ofNat 12 cnt) (BitVec.ofNat 12 off))).toNat = cnt := by
  obtain ⟨hoff, hcnt⟩ := Bool.and_eq_true_iff.1 h
  rw [aField_commandWord, bField_commandWord]
  exact ⟨toNat_ofNat_of_fits12 hoff, toNat_ofNat_of_fits12 hcnt⟩

/-- The word of a well-formed command selects that command. -/
theorem selectsCommand_encode (h : wellFormed i = true) : SelectsCommand (encode i) i := by
  cases i with
  | crc16 off cnt =>
    obtain ⟨ha, hb⟩ := operands_commandWord 0x01#8 h
    exact .crc16 (opField_commandWord ..) ha hb
  | parse off cnt =>
    obtain ⟨ha, hb⟩ := operands_commandWord 0x02#8 h
    exact .parse (opField_commandWord ..) ha hb
  | serialize off =>
    exact .serialize (opField_commandWord ..)
      ((congrArg _ (aField_commandWord ..)).trans (toNat_ofNat_of_fits12 h)) (bField_commandWord ..)
  | setexc code =>
    exact .setexc (opField_commandWord ..) (aField_commandWord ..) (bField_commandWord ..)
  | check off cnt =>
    obtain ⟨ha, hb⟩ := operands_commandWord 0x05#8 h
    exact .check (opField_commandWord ..) ha hb

/-- A word that selects a command is the word of that command, which is well-formed. -/
theorem SelectsCommand.encode_eq (h : SelectsCommand w i) : wellFormed i = true ∧ encode i = w := by
  rw [← commandWord_fields w]
  obtain ⟨op, rfl, rfl⟩ | ⟨op, rfl, rfl⟩ | ⟨op, rfl, b⟩ | ⟨op, a, b⟩ | ⟨op, rfl, rfl⟩ := h
  all_goals simp [wellFormed, encode, *]

/-! The rows of R85, each a mask and a match value. -/

/-- A mask acts on each field by itself. -/
theorem and_eq_iff_fields (w mask value : Word32) :
    w &&& mask = value ↔ opField w &&& opField mask = opField value ∧
      bField w &&& bField mask = bField value ∧ aField w &&& aField mask = aField value := by
  rw [word_eq_iff_fields]
  simp only [opField, bField, aField, BitVec.extractLsb'_and]

/-- The rows that fix the opcode alone. -/
theorem and_opMask_eq_iff (op : BitVec 8) :
    w &&& 0xFF000000#32 = commandWord op 0#12 0#12 ↔ opField w = op := by
  have hmask : (0xFF000000#32 : Word32) = commandWord (BitVec.allOnes 8) 0#12 0#12 := by decide
  rw [hmask, and_eq_iff_fields]
  simp only [opField_commandWord, bField_commandWord, aField_commandWord, BitVec.and_allOnes,
    BitVec.and_zero, and_true]

/-- The row that fixes the opcode and `b`. -/
theorem and_offMask_eq_iff (op : BitVec 8) :
    w &&& 0xFFFFF000#32 = commandWord op 0#12 0#12 ↔ opField w = op ∧ bField w = 0#12 := by
  have hmask : (0xFFFFF000#32 : Word32) =
      commandWord (BitVec.allOnes 8) (BitVec.allOnes 12) 0#12 := by decide
  rw [hmask, and_eq_iff_fields]
  simp only [opField_commandWord, bField_commandWord, aField_commandWord, BitVec.and_allOnes,
    BitVec.and_zero, and_true]

/-- The mask of bits 11:8 of an operand leaves nothing exactly when they are zero. -/
theorem and_highMask_eq_zero_iff (a : BitVec 12) :
    a &&& 0xF00#12 = 0#12 ↔ a.extractLsb' 8 4 = 0#4 := by
  have hhigh : (0xF00#12).extractLsb' 8 4 = BitVec.allOnes 4 := by decide
  have hlow : (0xF00#12).extractLsb' 0 8 = 0#8 := by decide
  have h := eq_setWidth_code_iff (a &&& 0xF00#12) 0#8
  rw [BitVec.extractLsb'_and, BitVec.extractLsb'_and, hhigh, hlow, BitVec.and_allOnes,
    BitVec.and_zero] at h
  simpa using h

/-- The row that fixes the opcode, `b` and the bits of `a` above the code. -/
theorem and_codeMask_eq_iff (op : BitVec 8) :
    w &&& 0xFFFFFF00#32 = commandWord op 0#12 0#12 ↔
      opField w = op ∧ bField w = 0#12 ∧ (aField w).extractLsb' 8 4 = 0#4 := by
  have hmask : (0xFFFFFF00#32 : Word32) =
      commandWord (BitVec.allOnes 8) (BitVec.allOnes 12) 0xF00#12 := by decide
  rw [hmask, and_eq_iff_fields]
  simp only [opField_commandWord, bField_commandWord, aField_commandWord, BitVec.and_allOnes,
    and_highMask_eq_zero_iff]

/-- Every row fixes the whole opcode. -/
theorem opField_of_rowMatches {r : OpcodeRow} (hr : r ∈ opcodeRows) (h : rowMatches r w = true) :
    opField w = opField r.value := by
  have hmask : ∀ r ∈ opcodeRows, opField r.mask = BitVec.allOnes 8 := by decide
  obtain ⟨hop, -, -⟩ := (and_eq_iff_fields ..).1 (beq_iff_eq.1 h)
  rwa [hmask r hr, BitVec.and_allOnes] at hop

/-- The operands, as R85 cuts them out of the word. -/
theorem aField_toNat_eq_and (w : Word32) : (aField w).toNat = (w &&& 0xFFF#32).toNat := by
  rw [aField_toNat, BitVec.toNat_and]
  exact (Nat.and_two_pow_sub_one_eq_mod w.toNat 12).symm

theorem bField_toNat_eq_and (w : Word32) : (bField w).toNat = ((w >>> 12) &&& 0xFFF#32).toNat := by
  rw [bField_toNat, BitVec.toNat_and, BitVec.toNat_ushiftRight, Nat.shiftRight_eq_div_pow]
  exact (Nat.and_two_pow_sub_one_eq_mod _ 12).symm

/-- With bits 11:8 zero, field `a` holds bits 7:0 of the word (R82). -/
theorem aField_eq_code (h : (aField w).extractLsb' 8 4 = 0#4) :
    aField w = (w.setWidth 8).setWidth 12 := by
  refine (eq_setWidth_code_iff ..).2 ⟨h, ?_⟩
  rw [← lowByte_eq_setWidth, aField, BitVec.extractLsb'_extractLsb'_of_le (by omega)]

/-! Illegal words (R86). -/

/-- The fields of a legal word: a defined opcode, and zero in the fields that must be zero. -/
def LegalFields (w : Word32) : Prop :=
  opField w = 0x01#8 ∨ opField w = 0x02#8 ∨ (opField w = 0x03#8 ∧ bField w = 0#12) ∨
    (opField w = 0x04#8 ∧ bField w = 0#12 ∧ (aField w).extractLsb' 8 4 = 0#4) ∨ opField w = 0x05#8

/-- The legal words are those that select a command. -/
theorem legalFields_iff_selects : LegalFields w ↔ ∃ i, SelectsCommand w i := by
  constructor
  · rintro (op | op | ⟨op, b⟩ | ⟨op, b, a⟩ | op)
    · exact ⟨_, .crc16 op rfl rfl⟩
    · exact ⟨_, .parse op rfl rfl⟩
    · exact ⟨_, .serialize op rfl b⟩
    · exact ⟨_, .setexc op (aField_eq_code a) b⟩
    · exact ⟨_, .check op rfl rfl⟩
  · rintro ⟨_, ⟨op, -, -⟩ | ⟨op, -, -⟩ | ⟨op, -, b⟩ | ⟨op, a, b⟩ | ⟨op, -, -⟩⟩
    case setexc => simp [LegalFields, op, b, ((eq_setWidth_code_iff ..).1 a).1]
    all_goals simp [LegalFields, *]

/-- A word is legal or illegal, and not both. -/
theorem decode_illegal_iff : (∃ e, decode w = .illegal e) ↔ ¬ LegalFields w := by
  simp only [legalFields_iff_selects, ← decode_eq_command_iff]
  cases decode w <;> simp

/-- The fields of an illegal word as numbers, case by case. -/
theorem not_legalFields_iff (w : Word32) :
    let op := w.toNat / 2 ^ 24
    let b := w.toNat / 2 ^ 12 % 2 ^ 12
    let a := w.toNat % 2 ^ 12
    ¬ LegalFields w ↔ op = 0 ∨ 6 ≤ op ∨ (op = 3 ∧ b ≠ 0) ∨ (op = 4 ∧ (b ≠ 0 ∨ a / 2 ^ 8 ≠ 0)) := by
  simp only [LegalFields, ← BitVec.toNat_inj, opField_toNat, bField_toNat, aField_toNat,
    BitVec.extractLsb'_toNat, BitVec.toNat_ofNat, Nat.shiftRight_eq_div_pow]
  omega

/-- A word matches a row exactly when its fields are legal. -/
theorem exists_row_iff : (∃ r ∈ opcodeRows, rowMatches r w = true) ↔ LegalFields w := by
  simp only [opcodeRows, rowMatches, beq_iff_eq, List.exists_mem_cons_iff, List.not_mem_nil,
    false_and, exists_false, or_false]
  exact or_congr (and_opMask_eq_iff 0x01#8) <| or_congr (and_opMask_eq_iff 0x02#8) <|
    or_congr (and_offMask_eq_iff 0x03#8) <| or_congr (and_codeMask_eq_iff 0x04#8)
      (and_opMask_eq_iff 0x05#8)

theorem no_row_iff : (∀ r ∈ opcodeRows, rowMatches r w = false) ↔ ¬ LegalFields w := by
  rw [← exists_row_iff]
  simp

/-- A host write of an illegal word to `CMD` raises `ERR_ILLEGAL` (R86, R203). -/
theorem step_illegal {s : State} {rest : List HostEvent} {e : DecodeError}
    (he : s.events = .access ⟨.write w, 32, 0x0000⟩ :: rest) (hw : decode w = .illegal e) :
    step s = .next (raiseError .illegal (setEvents rest s)) := by
  rw [step_write he rfl (mapTarget_register s.cfg (tgt := .cmd) (by simp [registerMap]))]
  simp [writeTarget, runCommand, hw]

end

/-- Settles O4: the word of a well-formed command selects that command. -/
theorem decodeInvertsEncode : Obligations.DecodeInvertsEncode :=
  fun _ h => decode_eq_command_iff.2 (selectsCommand_encode h)

/-- Settles O5: the command a word selects is well-formed, and has that word. -/
theorem encodeInvertsDecode : Obligations.EncodeInvertsDecode :=
  fun _ _ h => (decode_eq_command_iff.1 h).encode_eq

/-- Settles O2: a row's mask and match value fix the fields that select its command, and the
opcode, which is another in each row. -/
theorem wordSelectsItsOpcodeRow : Obligations.WordSelectsItsOpcodeRow := by
  refine ⟨fun w => ?_, fun w r₁ h₁ r₂ h₂ hm₁ hm₂ => ?_⟩
  · have ha := aField_toNat_eq_and w
    have hb := bField_toNat_eq_and w
    refine ⟨fun h => ?crc16, fun h => ?parse, fun h => ?serialize, fun h => ?setexc,
      fun h => ?check⟩ <;> apply decode_eq_command_iff.2
    case crc16 => exact .crc16 ((and_opMask_eq_iff 0x01#8).1 h) ha hb
    case parse => exact .parse ((and_opMask_eq_iff 0x02#8).1 h) ha hb
    case serialize =>
      obtain ⟨op, b⟩ := (and_offMask_eq_iff 0x03#8).1 h
      exact .serialize op ha b
    case setexc =>
      obtain ⟨op, b, high⟩ := (and_codeMask_eq_iff 0x04#8).1 h
      exact .setexc op (aField_eq_code high) b
    case check => exact .check ((and_opMask_eq_iff 0x05#8).1 h) ha hb
  · have hopcodes : ∀ r₁ ∈ opcodeRows, ∀ r₂ ∈ opcodeRows,
        opField r₁.value = opField r₂.value → r₁ = r₂ := by decide
    exact hopcodes r₁ h₁ r₂ h₂
      ((opField_of_rowMatches h₁ hm₁).symm.trans (opField_of_rowMatches h₂ hm₂))

/-- Settles O3: the rows and the decoder agree on which fields are legal, and the write of an
illegal word reaches `raiseError`. -/
theorem illegalWordsRaiseErrIllegal : Obligations.IllegalWordsRaiseErrIllegal := by
  refine ⟨fun w => ⟨decode_illegal_iff.trans no_row_iff.symm,
    decode_illegal_iff.trans (not_legalFields_iff w)⟩, fun s w rest he hrows => ?_,
    ⟨.undefinedOpcode 0x00#8, by decide⟩, ⟨.undefinedOpcode 0xFF#8, by decide⟩⟩
  obtain ⟨e, hw⟩ := decode_illegal_iff.2 (no_row_iff.1 hrows)
  exact step_illegal he hw

/-- Settles O1: the decoder runs on twelve fixed words. -/
theorem documentedWordsDecode : Obligations.DocumentedWordsDecode := by
  unfold Obligations.DocumentedWordsDecode
  decide

end Sys2Proof.Machine

/-! O30 to O32. The function byte and the CRC bytes, taken apart and put together, and the frame that
`PARSE` takes apart. -/

namespace Sys2Proof.Machine

section
variable {s : State}

/-- The function byte, put together again (R71). -/
@[simp] theorem functionByte_split (fb : Byte) :
    functionByte (exceptionFlag fb) (functionCode fb) = fb := by
  apply BitVec.eq_of_getLsbD_eq
  intro i hi
  by_cases h7 : i < 7
  · simp [functionByte, exceptionFlag, functionCode, hi, h7]
  · obtain rfl : i = 7 := by omega
    simp [functionByte, exceptionFlag, functionCode]

/-- The CRC, taken apart (R72). -/
@[simp] theorem crcLow_joinCrc (lo hi : Byte) : crcLow (joinCrc lo hi) = lo := by
  apply BitVec.eq_of_getLsbD_eq
  intro i h8
  have h16 : i < 16 := by omega
  simp [crcLow, joinCrc, h8, h16]

@[simp] theorem crcHigh_joinCrc (lo hi : Byte) : crcHigh (joinCrc lo hi) = hi := by
  apply BitVec.eq_of_getLsbD_eq
  intro i h8
  have hsum : 8 + i < 16 := by omega
  simp [crcHigh, joinCrc, h8, hsum]

/-- The parts of a frame of `n + 4` bytes in wire order (R70). -/
theorem wireBytes_frame (s : State) (off n : Nat) :
    wireBytes s off (n + 4) = [wireByte s off, wireByte s (off + 1)] ++ wireBytes s (off + 2) n ++
      crcBytes (receivedCrc s off (n + 4)) := by
  have htwo : ∀ a, wireBytes s a 2 = [wireByte s a, wireByte s (a + 1)] := fun _ => rfl
  rw [show n + 4 = 2 + n + 2 by omega, wireBytes_append, wireBytes_append, htwo, htwo, crcBytes,
    receivedCrc, crcLow_joinCrc, crcHigh_joinCrc,
    show off + (2 + n + 2) - 2 = off + (2 + n) by omega,
    show off + (2 + n + 2) - 1 = off + (2 + n) + 1 by omega]

theorem loadFrame_paylen_toNat (off : Nat) {n : Nat} (hn : n ≤ s.cfg.bufSize) :
    (loadFrame off (n + 4) s).paylen.toNat = n :=
  toNat_ofNat_frameLength s.cfg hn

/-- The frame that `PARSE` loads, in wire order, is the range it reads (R123). -/
theorem frameBody_loadFrame {off n : Nat} (hn : n ≤ s.cfg.bufSize) :
    frameBody (loadFrame off (n + 4) s) ++ crcBytes (loadFrame off (n + 4) s).fcrc =
      wireBytes s off (n + 4) := by
  have hpay : payloadBytes (loadFrame off (n + 4) s) n = wireBytes s (off + 2) n :=
    payloadBytes_loadFrame off (n + 4) s
  rw [wireBytes_frame, frameBody, loadFrame_paylen_toNat off hn, hpay]
  simp [loadFrame]

end

/-- Settles O30: bits 7 and 6:0 are disjoint and are all of the byte. -/
theorem functionByteSplitsAndAssembles : Obligations.FunctionByteSplitsAndAssembles :=
  ⟨fun _ => ⟨rfl, rfl⟩, fun _ _ => rfl, functionByte_split,
    fun e f => ⟨exceptionFlag_functionByte e f, functionCode_functionByte e f⟩⟩

/-- Settles O31: bits 7:0 and 15:8 are disjoint and are all of the CRC. -/
theorem crcBytesSplitAndAssemble : Obligations.CrcBytesSplitAndAssemble :=
  ⟨fun _ _ => rfl, joinCrc_crcLow_crcHigh, fun lo hi => ⟨crcLow_joinCrc lo hi, crcHigh_joinCrc lo hi⟩,
    fun _ => rfl⟩

/-- Settles O32: each part of the range is in a frame register, split in a way that the wire order
undoes. -/
theorem parseLosesNothing : Obligations.ParseLosesNothing := by
  intro off cnt s t h herr
  obtain ⟨⟨h4, hfit⟩, rfl⟩ | ⟨-, e, rfl⟩ := exec_ends h
  · obtain ⟨n, rfl⟩ : ∃ n, cnt = n + 4 := ⟨cnt - 4, by omega⟩
    have hn : n ≤ s.cfg.bufSize := by omega
    exact ⟨frameBody_loadFrame hn, wireBytes_congr rfl rfl off (n + 4),
      congrArg (· + 4) (loadFrame_paylen_toNat off hn)⟩
  · exact absurd herr (errorCode_ne_zero e)

end Sys2Proof.Machine

/-! O24 to O29. The bit step is linear over exclusive-or, loses no bit, and shifts a zero bit out;
from these three facts the table form (R105), and what the CRC detects (R107). -/

namespace Sys2Proof.Machine

section
variable {n : Nat}

/-! The bit step. -/

theorem bitstep_of_even {c : Word16} (h : c.getLsbD 0 = false) : bitstep c = c >>> 1 :=
  if_neg (by rw [h]; exact Bool.false_ne_true)

theorem bitstep_of_odd {c : Word16} (h : c.getLsbD 0 = true) : bitstep c = c >>> 1 ^^^ crcPoly :=
  if_pos h

@[simp] theorem bitstep_zero : bitstep 0#16 = 0#16 := rfl

/-- The bit step is linear over exclusive-or: two odd registers take the polynomial twice. -/
theorem bitstep_xor (a b : Word16) : bitstep (a ^^^ b) = bitstep a ^^^ bitstep b := by
  have hbit : (a ^^^ b).getLsbD 0 = (a.getLsbD 0 ^^ b.getLsbD 0) := BitVec.getLsbD_xor
  cases ha : a.getLsbD 0 <;> cases hb : b.getLsbD 0 <;> rw [ha, hb] at hbit
  · rw [bitstep_of_even hbit, bitstep_of_even ha, bitstep_of_even hb,
      BitVec.ushiftRight_xor_distrib]
  · rw [bitstep_of_odd hbit, bitstep_of_even ha, bitstep_of_odd hb, BitVec.ushiftRight_xor_distrib,
      BitVec.xor_assoc]
  · rw [bitstep_of_odd hbit, bitstep_of_odd ha, bitstep_of_even hb, BitVec.ushiftRight_xor_distrib]
    ac_rfl
  · calc bitstep (a ^^^ b)
      _ = a >>> 1 ^^^ b >>> 1 := by rw [bitstep_of_even hbit, BitVec.ushiftRight_xor_distrib]
      _ = a >>> 1 ^^^ b >>> 1 ^^^ (crcPoly ^^^ crcPoly) := by rw [BitVec.xor_self, BitVec.xor_zero]
      _ = bitstep a ^^^ bitstep b := by rw [bitstep_of_odd ha, bitstep_of_odd hb]; ac_rfl

/-- The bit shifted out comes back at the top: the polynomial has bit 15 set. -/
theorem bitstep_getLsbD_top (c : Word16) : (bitstep c).getLsbD 15 = c.getLsbD 0 := by
  cases h : c.getLsbD 0
  · simp [bitstep_of_even h]
  · simp [bitstep_of_odd h, crcPoly]

theorem bitstep_eq_zero {c : Word16} (h : bitstep c = 0#16) : c = 0#16 := by
  have heven : c.getLsbD 0 = false := by rw [← bitstep_getLsbD_top, h]; rfl
  rw [bitstep_of_even heven] at h
  apply BitVec.eq_of_getLsbD_eq
  intro i hi
  cases i with
  | zero => exact heven
  | succ j => simpa [Nat.add_comm] using congrArg (·.getLsbD j) h

/-- The bit step loses nothing. -/
theorem bitstep_injective : Function.Injective bitstep := fun a b h =>
  BitVec.xor_eq_zero_iff.1 (bitstep_eq_zero (by rw [bitstep_xor, h, BitVec.xor_self]))

/-! `n` bit steps. -/

theorem bitsteps_add (m n : Nat) (c : Word16) : bitsteps (m + n) c = bitsteps n (bitsteps m c) := by
  induction m generalizing c with
  | zero => rw [Nat.zero_add, bitsteps_zero]
  | succ m ih => rw [Nat.succ_add, bitsteps_succ, bitsteps_succ, ih]

theorem bitsteps_xor (n : Nat) (a b : Word16) :
    bitsteps n (a ^^^ b) = bitsteps n a ^^^ bitsteps n b := by
  induction n generalizing a b with
  | zero => rfl
  | succ n ih => rw [bitsteps_succ, bitstep_xor, ih, ← bitsteps_succ, ← bitsteps_succ]

theorem bitsteps_injective (n : Nat) : Function.Injective (bitsteps n) := by
  induction n with
  | zero => exact Function.injective_id
  | succ n ih => exact ih.comp bitstep_injective

theorem bitsteps_of_zero (n : Nat) : bitsteps n 0#16 = 0#16 := by
  induction n with
  | zero => rfl
  | succ n ih => rw [bitsteps_succ, bitstep_zero, ih]

/-- Bit steps that shift only zero bits out are a plain shift. -/
theorem bitsteps_eq_shift {c : Word16} (h : ∀ i < n, c.getLsbD i = false) :
    bitsteps n c = c >>> n := by
  induction n generalizing c with
  | zero => simp
  | succ n ih =>
    rw [bitsteps_succ, bitstep_of_even (h 0 n.succ_pos), ih, Nat.add_comm, BitVec.shiftRight_add]
    intro i hi
    rw [BitVec.getLsbD_ushiftRight]
    exact h (1 + i) (by omega)

/-- Two registers that agree in the bits shifted out differ afterwards by their shifts alone. -/
theorem bitsteps_eq_of_agree {a b : Word16} (h : ∀ i < n, a.getLsbD i = b.getLsbD i) :
    bitsteps n a = bitsteps n b ^^^ (a ^^^ b) >>> n := by
  have hlow : ∀ i < n, (a ^^^ b).getLsbD i = false := fun i hi => by
    rw [BitVec.getLsbD_xor, h i hi, Bool.xor_self]
  rw [← bitsteps_eq_shift hlow, ← bitsteps_xor, BitVec.xor_comm a, ← BitVec.xor_assoc,
    BitVec.xor_self, BitVec.zero_xor]

/-! The table form (R102, R105). -/

/-- Four bit steps look the low nibble up in the table and shift the rest. -/
theorem bitsteps_four (c : Word16) : bitsteps 4 c = crcTable (c.extractLsb' 0 4) ^^^ c >>> 4 := by
  have hagree : ∀ i < 4, c.getLsbD i = ((c.extractLsb' 0 4).setWidth 16).getLsbD i := by
    intro i hi
    have h16 : i < 16 := by omega
    simp [hi, h16]
  have hshift : ((c.extractLsb' 0 4).setWidth 16) >>> 4 = 0#16 := by
    apply BitVec.eq_of_getLsbD_eq
    intro i hi
    simp
  rw [bitsteps_eq_of_agree hagree, BitVec.ushiftRight_xor_distrib, hshift, BitVec.xor_zero,
    crcTable]

/-- A table step is four bit steps of the register and the nibble, but for the part of `n` above the
nibble, which is not shifted in. -/
theorem nibbleStep_eq (c n : Word16) : nibbleStep c n = bitsteps 4 (c ^^^ n) ^^^ n >>> 4 := by
  rw [nibbleStep, bitsteps_four, BitVec.ushiftRight_xor_distrib, BitVec.xor_assoc, BitVec.xor_assoc,
    BitVec.xor_self, BitVec.xor_zero]

/-- The part of the byte that the first table step leaves out is what the second brings in
(R105). -/
theorem crcUpdateNibbles_eq (c : Word16) (d : Byte) : crcUpdateNibbles c d = crcUpdate c d := by
  have hhigh : (d >>> 4).setWidth 16 = d.setWidth 16 >>> 4 := by
    apply BitVec.eq_of_getLsbD_eq
    intro i hi
    simp
  have hnone : d.setWidth 16 >>> 4 >>> 4 = 0#16 := by
    apply BitVec.eq_of_getLsbD_eq
    intro i hi
    simp
  rw [crcUpdateNibbles, hhigh, nibbleStep_eq, nibbleStep_eq, hnone, BitVec.xor_zero,
    BitVec.xor_assoc, BitVec.xor_self, BitVec.xor_zero, ← bitsteps_add, crcUpdate]

/-! The byte step (R107). -/

theorem crcUpdate_injective_register (d : Byte) : Function.Injective fun c => crcUpdate c d :=
  fun _ _ h => (BitVec.xor_left_inj _).1 (bitsteps_injective 8 h)

theorem crcUpdate_injective_byte (c : Word16) : Function.Injective (crcUpdate c) := fun x y h => by
  have h16 : x.setWidth 16 = y.setWidth 16 := (BitVec.xor_right_inj _).1 (bitsteps_injective 8 h)
  simpa using congrArg (BitVec.setWidth 8) h16

/-- The register comes to zero exactly when it was the byte. -/
theorem crcUpdate_eq_zero_iff {c : Word16} {d : Byte} :
    crcUpdate c d = 0#16 ↔ c = d.setWidth 16 := by
  rw [crcUpdate, ← bitsteps_of_zero 8, (bitsteps_injective 8).eq_iff, BitVec.xor_eq_zero_iff]

/-- The low byte of a CRC cancels itself and leaves the high byte. -/
theorem crcUpdate_joinCrc (lo hi : Byte) : crcUpdate (joinCrc lo hi) lo = hi.setWidth 16 := by
  have hx : joinCrc lo hi ^^^ lo.setWidth 16 = hi.setWidth 16 <<< 8 := by
    apply BitVec.eq_of_getLsbD_eq
    intro i h16
    by_cases h8 : i < 8
    · simp [joinCrc, h16, h8]
    · have hlo : lo.getLsbD i = false := BitVec.getLsbD_of_ge lo i (by omega)
      simp [joinCrc, h16, h8, hlo]
  rw [crcUpdate, hx, bitsteps_eq_shift fun i hi => by simp [hi]]
  apply BitVec.eq_of_getLsbD_eq
  intro i h16
  have hhigh : hi.getLsbD i = true → 8 + i < 16 := fun h => by
    have := BitVec.lt_of_getLsbD h
    omega
  simpa using fun _ => hhigh

theorem eq_joinCrc_iff {c : Word16} {lo hi : Byte} :
    c = joinCrc lo hi ↔ lo = crcLow c ∧ hi = crcHigh c := by
  constructor
  · rintro rfl
    exact ⟨(crcLow_joinCrc lo hi).symm, (crcHigh_joinCrc lo hi).symm⟩
  · rintro ⟨rfl, rfl⟩
    exact (joinCrc_crcLow_crcHigh c).symm

/-! Sequences (R107). -/

theorem foldl_crcUpdate_injective (bs : List Byte) :
    Function.Injective fun c => bs.foldl crcUpdate c := by
  induction bs with
  | nil => exact Function.injective_id
  | cons d bs ih => exact ih.comp (crcUpdate_injective_register d)

/-- One byte of a sequence changed changes the CRC (R107 (c)). -/
theorem crc16_ne_of_one_byte (xs ys : List Byte) {x y : Byte} (h : x ≠ y) :
    crc16 (xs ++ x :: ys) ≠ crc16 (xs ++ y :: ys) := by
  rw [crc16_append, crc16_append, List.foldl_cons, List.foldl_cons]
  exact fun heq => h (crcUpdate_injective_byte _ (foldl_crcUpdate_injective ys heq))

/-- The residue (R107 (d)). -/
theorem crc16_residue_iff (bs : List Byte) (x y : Byte) :
    crc16 (bs ++ [x, y]) = 0#16 ↔ crc16 bs = joinCrc x y := by
  calc crc16 (bs ++ [x, y]) = 0#16
    _ ↔ crcUpdate (crcUpdate (crc16 bs) x) y = 0#16 := by
      rw [crc16_append, List.foldl_cons, List.foldl_cons, List.foldl_nil]
    _ ↔ crcUpdate (crc16 bs) x = crcUpdate (joinCrc x y) x := by
      rw [crcUpdate_eq_zero_iff, crcUpdate_joinCrc]
    _ ↔ crc16 bs = joinCrc x y := (crcUpdate_injective_register x).eq_iff

end

/-- Settles O24: each is its definition, and the CRC of one byte more continues. -/
theorem crcStepsAreTheDefined : Obligations.CrcStepsAreTheDefined :=
  ⟨fun _ => rfl, fun _ _ => rfl, crc16_nil, crc16_concat⟩

/-- Settles O25: the sixteen entries evaluate. -/
theorem crcTableValues : Obligations.CrcTableValues :=
  ⟨fun _ => rfl, by decide⟩

/-- Settles O26: a table step is four bit steps, and two of them are the byte step. -/
theorem crcNibbleFormIsTheByteStep : Obligations.CrcNibbleFormIsTheByteStep :=
  fun c d => ⟨crcUpdateNibbles_eq c d, rfl⟩

/-- Settles O27: the seven CRCs evaluate. -/
theorem crcOfTheDocumentFrame : Obligations.CrcOfTheDocumentFrame := by
  unfold Obligations.CrcOfTheDocumentFrame
  decide

/-- Settles O28: the bit step loses nothing, so no step after the changed byte brings the registers
together again. -/
theorem crcDetectsAOneByteChange : Obligations.CrcDetectsAOneByteChange :=
  ⟨fun d => Finite.injective_iff_bijective.1 (crcUpdate_injective_register d),
    crcUpdate_injective_byte, fun xs ys _ _ h => crc16_ne_of_one_byte xs ys h⟩

/-- Settles O29: the CRC's own low byte leaves its high byte, which cancels itself. -/
theorem crcResidueIsZeroExactlyForTheCrcBytes :
    Obligations.CrcResidueIsZeroExactlyForTheCrcBytes :=
  fun bs x y => (crc16_residue_iff bs x y).trans eq_joinCrc_iff

end Sys2Proof.Machine

/-! O9 and O39. The word of a command with two operands, and a range of WIRE with bytes changed. -/

namespace Sys2Proof.Machine

section
variable {s : State} {off cnt : Nat}

/-- The word of a command with two operands, as a row of R85 puts it together. -/
theorem commandWord_operands (op : BitVec 8) (hoff : off < 4096) (hcnt : cnt < 4096) :
    commandWord op (BitVec.ofNat 12 cnt) (BitVec.ofNat 12 off) =
      op.setWidth 32 <<< 24 ||| (BitVec.ofNat 32 cnt <<< 12) ||| BitVec.ofNat 32 off := by
  have hop : (op.setWidth 32 <<< 24).toNat = op.toNat <<< 24 := by
    have := op.isLt
    simp only [BitVec.toNat_shiftLeft, BitVec.toNat_setWidth, Nat.shiftLeft_eq]
    omega
  have hb : (BitVec.ofNat 32 cnt <<< 12).toNat = cnt <<< 12 := by
    simp only [BitVec.toNat_shiftLeft, BitVec.toNat_ofNat, Nat.shiftLeft_eq]
    omega
  have ha : (BitVec.ofNat 32 off).toNat = off := Nat.mod_eq_of_lt (by omega)
  apply BitVec.eq_of_toNat_eq
  rw [commandWord, BitVec.toNat_append, BitVec.toNat_append,
    toNat_ofNat_of_fits12 (decide_eq_true hcnt), toNat_ofNat_of_fits12 (decide_eq_true hoff),
    BitVec.toNat_or, BitVec.toNat_or, hop, hb, ha, Nat.shiftLeft_or_distrib, ← Nat.shiftLeft_add]

theorem wireBytes_congr_below {t : State} {n : Nat}
    (h : ∀ k, k < n → wireByte t (off + k) = wireByte s (off + k)) :
    wireBytes t off n = wireBytes s off n :=
  List.map_congr_left fun k hk => h k (List.mem_range.1 hk)

/-- A write behind a range leaves the range. -/
theorem wireBytes_writeWire_behind {n a : Nat} (bs : List Byte) (h : off + n ≤ a) :
    wireBytes (writeWire a bs s) off n = wireBytes s off n :=
  wireBytes_congr_below fun k hk => wireByte_writeWire_out s (.inl (by omega))

/-- A range with one byte singled out. -/
theorem wireBytes_split {n k : Nat} (s : State) (off : Nat) (h : k < n) :
    wireBytes s off n =
      wireBytes s off k ++ wireByte s (off + k) :: wireBytes s (off + k + 1) (n - k - 1) := by
  have hone : wireBytes s (off + k) 1 = [wireByte s (off + k)] := rfl
  conv_lhs => rw [show n = k + (1 + (n - k - 1)) by omega, wireBytes_append, wireBytes_append, hone]
  rfl

/-- Another byte at one index of a range gives another CRC (R107 (c)). -/
theorem crc16_wireBytes_writeWire_ne {n k : Nat} {x : Byte} (hk : k < n)
    (hx : x ≠ wireByte s (off + k)) :
    crc16 (wireBytes (writeWire (off + k) [x] s) off n) ≠ crc16 (wireBytes s off n) := by
  have hleft := wireBytes_writeWire_behind (s := s) [x] (le_refl (off + k))
  have hright : wireBytes (writeWire (off + k) [x] s) (off + k + 1) (n - k - 1) =
      wireBytes s (off + k + 1) (n - k - 1) :=
    wireBytes_congr_below fun j _ => wireByte_writeWire_out s (.inr (by simp))
  rw [wireBytes_split _ off hk, wireBytes_split s off hk, hleft, hright,
    wireByte_writeWire_single, if_pos rfl]
  exact crc16_ne_of_one_byte _ _ hx

/-- The two CRC bytes written anew. -/
theorem receivedCrc_writeWire_same (s : State) (x y : Byte) (h : 2 ≤ cnt) :
    receivedCrc (writeWire (off + cnt - 2) [x, y] s) off cnt = joinCrc x y := by
  have hlow := wireByte_writeWire_in s (off + cnt - 2) (bs := [x, y]) (k := 0) (by simp)
  have hhigh := wireByte_writeWire_in s (off + cnt - 2) (bs := [x, y]) (k := 1) (by simp)
  rw [show off + cnt - 2 + 1 = off + cnt - 1 by omega] at hhigh
  exact congrArg₂ joinCrc hlow hhigh

/-- A write before the two CRC bytes leaves them. -/
theorem receivedCrc_writeWire_before {k : Nat} {x : Byte} (h : k < cnt - 2) :
    receivedCrc (writeWire (off + k) [x] s) off cnt = receivedCrc s off cnt := by
  rw [receivedCrc, wireByte_writeWire_single, wireByte_writeWire_single, if_neg (by omega),
    if_neg (by omega), receivedCrc]

/-- What a `CHECK` that fits leaves (R145). -/
theorem exec_check_of_fits (h : commandFits (.check off cnt) s) :
    ∃ t, exec (.check off cnt) s = .next t ∧ t.err = 0#4 ∧
      t.crcout = crc16 (wireBytes s off (cnt - 2)) ∧
      (t.matched = true ↔ crc16 (wireBytes s off (cnt - 2)) = receivedCrc s off cnt) :=
  ⟨_, exec_of_fits h, rfl, rfl, beq_iff_eq⟩

/-- A `CHECK` that gives `MATCH` 1 fits, and the CRC carried is the CRC of the bytes before it. -/
theorem check_passes {t : State} (h : exec (.check off cnt) s = .next t) (hm : t.matched = true) :
    commandFits (.check off cnt) s ∧ t.crcout = crc16 (wireBytes s off (cnt - 2)) ∧
      crc16 (wireBytes s off (cnt - 2)) = receivedCrc s off cnt := by
  obtain ⟨hfit, rfl⟩ | ⟨-, e, rfl⟩ := exec_ends h
  · exact ⟨hfit, rfl, beq_iff_eq.1 hm⟩
  · cases hm

end

/-- The CRC of the document's test frame (R111). -/
theorem crc16_testFrame :
    crc16 [0x01#8, 0x03#8, 0x00#8, 0x00#8, 0x00#8, 0x01#8] = 0x0A84#16 :=
  Option.some.inj (congrArg (·[6]?) crcOfTheDocumentFrame)

/-- Settles O9: the word by its fields, the effect by whether the range fits, and the two examples by
the bytes of their range. -/
theorem crc16ComputesTheRangeCrc : Obligations.Crc16ComputesTheRangeCrc := by
  refine ⟨fun off cnt hoff hcnt => commandWord_operands 0x01#8 hoff hcnt,
    fun off cnt s => ⟨fun hfit => exec_of_fits (i := .crc16 off cnt) hfit,
      fun hmis => exec_of_misfit (i := .crc16 off cnt) (Nat.not_le.2 hmis)⟩,
    fun off s hoff => exec_of_fits (i := .crc16 off 0) hoff, fun s h6 hwire => ⟨by decide, ?_⟩⟩
  have hbytes : wireBytes s 0 6 = [0x01#8, 0x03#8, 0x00#8, 0x00#8, 0x00#8, 0x01#8] := by
    simpa only [wireBytes, Nat.zero_add] using hwire
  rw [exec_of_fits (i := .crc16 0 6) h6, commandEffect, hbytes, crc16_testFrame]
  rfl

/-- Settles O39: two CRC bytes join to one CRC only, and one byte changed changes the CRC. -/
theorem checkDetectsCorruption : Obligations.CheckDetectsCorruption := by
  intro off cnt s u hu hm
  obtain ⟨⟨h4, hfit⟩, hcrcout, hcrc⟩ := check_passes hu hm
  refine ⟨fun x y hxy => ?_, fun k x hk hx => ?_⟩
  · obtain ⟨v, hv, herr, hout, hmatch⟩ :=
      exec_check_of_fits (s := writeWire (off + cnt - 2) [x, y] s) ⟨h4, hfit⟩
    rw [wireBytes_writeWire_behind [x, y] (by omega)] at hout hmatch
    rw [receivedCrc_writeWire_same s x y (by omega), hcrc] at hmatch
    refine ⟨v, hv, herr, hout.trans hcrcout.symm, Bool.eq_false_iff.2 fun hmatched => ?_⟩
    obtain ⟨hx, hy⟩ := eq_joinCrc_iff.1 (hmatch.1 hmatched)
    rw [receivedCrc, crcLow_joinCrc] at hx
    rw [receivedCrc, crcHigh_joinCrc] at hy
    exact hxy.elim (· hx) (· hy)
  · obtain ⟨v, hv, herr, hout, hmatch⟩ :=
      exec_check_of_fits (s := writeWire (off + k) [x] s) ⟨h4, hfit⟩
    have hne := crc16_wireBytes_writeWire_ne hk hx
    rw [receivedCrc_writeWire_before hk, ← hcrc] at hmatch
    refine ⟨v, hv, herr, ?_, Bool.eq_false_iff.2 fun hmatched => hne (hmatch.1 hmatched)⟩
    rwa [hout, hcrcout]

end Sys2Proof.Machine

/-! O10 and O33. The two errors of `PARSE`, the payload it loads, and the part of WIRE that decides
what it loads. -/

namespace Sys2Proof.Machine

section
variable {s : State} {off cnt : Nat}

/-- `PARSE` of a range too short to be a frame, wherever the range lies (R201, R205). -/
theorem exec_parse_of_short (h : cnt < 4) :
    exec (.parse off cnt) s = .next (raiseError .short s) := by
  rw [exec_of_misfit (i := .parse off cnt) fun hfit => Nat.not_lt.2 hfit.1 h, commandError,
    frameRangeError, if_pos h]
  rfl

/-- `PARSE` of a range that is long enough and leaves WIRE (R202). -/
theorem exec_parse_of_outside (h4 : 4 ≤ cnt) (h : s.cfg.bufSize < off + cnt) :
    exec (.parse off cnt) s = .next (raiseError .range s) := by
  rw [exec_of_misfit (i := .parse off cnt) fun hfit => Nat.not_lt.2 hfit.2 h, commandError,
    frameRangeError, if_neg (Nat.not_lt.2 h4)]
  rfl

/-- A byte of the payload that `PARSE` loads (R120). -/
theorem payloadByte_loadFrame_in {k : Nat} (h : k < cnt - 4) :
    payloadByte (loadFrame off cnt s) k = wireByte s (off + 2 + k) := by
  have hbytes := payloadBytes_loadFrame off cnt s
  have hk := List.getElem_of_eq hbytes (i := k) (by simpa using h)
  rwa [payloadBytes_getElem, wireBytes_getElem] at hk

/-- All that `PARSE` loads but `FCRC` comes from the first `cnt - 2` bytes of its range (R120). -/
theorem loadFrame_congr_wire (m : Memory) (h4 : 4 ≤ cnt)
    (hm : ∀ k, k < cnt - 2 → wireByte { s with wire := m } (off + k) = wireByte s (off + k)) :
    loadFrame off cnt { s with wire := m } =
      { loadFrame off cnt s with
        wire := m, fcrc := receivedCrc { s with wire := m } off cnt } := by
  have hstation : wireByte { s with wire := m } off = wireByte s off := hm 0 (by omega)
  have hfb := hm 1 (by omega)
  have hpay : wireBytes { s with wire := m } (off + 2) (cnt - 4) =
      wireBytes s (off + 2) (cnt - 4) :=
    wireBytes_congr_below fun k hk => by rw [Nat.add_assoc]; exact hm (2 + k) (by omega)
  simp only [loadFrame, hstation, hfb, hpay]
  rfl

end

/-- Settles O10: the word by its fields, the errors by which test fails first, the effect by the
register or byte read, and the example by the bytes of its range. -/
theorem parseLoadsTheFrame : Obligations.ParseLoadsTheFrame := by
  refine ⟨fun off cnt hoff hcnt => commandWord_operands 0x02#8 hoff hcnt,
    fun off cnt s => ⟨exec_parse_of_short, exec_parse_of_outside, fun h4 hfit =>
      ⟨_, exec_of_fits (i := .parse off cnt) ⟨h4, hfit⟩, rfl, fun _ => payloadByte_loadFrame_in,
        fun _ => payloadByte_loadFrame_out⟩⟩,
    fun s h8 hwire => ⟨by decide, _, exec_of_fits (i := .parse 0 8) ⟨by decide, h8⟩, ?_⟩⟩
  obtain ⟨hstation, hfb, h2, h3, h4, h5, hlow, hhigh⟩ : _ ∧ _ ∧ _ ∧ _ ∧ _ ∧ _ ∧ _ ∧ _ := by
    simpa [List.range_succ] using hwire
  have hpay : wireBytes s 2 4 = [0x00#8, 0x00#8, 0x00#8, 0x01#8] := by
    simp [wireBytes, List.range_succ, h2, h3, h4, h5]
  refine ⟨hstation, ?_, ?_, rfl, (payloadBytes_loadFrame 0 8 s).trans hpay, ?_, rfl⟩
  · exact congrArg functionCode hfb
  · exact congrArg exceptionFlag hfb
  · exact congrArg₂ joinCrc hlow hhigh

/-- Settles O33: the two tests of `PARSE` do not read WIRE, and what it loads is decided by the bytes
on which the two memories agree, `FCRC` excepted. -/
theorem parseDoesNotValidateTheCrc : Obligations.ParseDoesNotValidateTheCrc := by
  intro off cnt s t m h4 hm h
  by_cases hfit : commandFits (.parse off cnt) s
  · rw [exec_of_fits hfit] at h
    cases h
    refine ⟨receivedCrc { s with wire := m } off cnt, ?_⟩
    rw [exec_of_fits (s := { s with wire := m }) hfit, commandEffect, loadFrame_congr_wire m h4 hm]
    rfl
  · rw [exec_of_misfit hfit] at h
    cases h
    exact ⟨s.fcrc, exec_of_misfit (s := { s with wire := m }) hfit⟩

end Sys2Proof.Machine

/-! O11, O12, O35 and O37. The body of a frame in WIRE and the CRC behind it, the word of a command
with one operand, and an illegal word. -/

namespace Sys2Proof.Machine

section
variable {s t : State} {off n : Nat}

/-- The word of a command with one operand, as a row of R85 puts it together. -/
theorem commandWord_operand {a : Nat} (op : BitVec 8) (ha : a < 4096) :
    commandWord op 0#12 (BitVec.ofNat 12 a) = op.setWidth 32 <<< 24 ||| BitVec.ofNat 32 a := by
  have hzero : BitVec.ofNat 32 0 <<< 12 = 0#32 := by decide
  have h := commandWord_operands op (cnt := 0) ha (by decide)
  rwa [hzero, BitVec.or_zero] at h

/-- An illegal word raises `ERR_ILLEGAL` (R86, R203). -/
theorem runCommand_of_illegal {w : Word32} (h : ¬ LegalFields w) :
    runCommand w s = .next (raiseError .illegal s) := by
  obtain ⟨e, he⟩ := decode_illegal_iff.2 h
  simp [runCommand, he]

/-- A range from the start of WIRE. -/
theorem wireBytes_zero (s : State) (n : Nat) : wireBytes s 0 n = (List.range n).map (wireByte s) := by
  simp [wireBytes]

/-- The two bytes of a CRC in wire order (R72). -/
theorem wireBytes_two_eq_crcBytes {a : Nat} {c : Word16} :
    wireBytes s a 2 = crcBytes c ↔ wireByte s a = crcLow c ∧ wireByte s (a + 1) = crcHigh c := by
  simp [wireBytes, crcBytes, List.range_succ]

theorem crcBytes_inj {c d : Word16} : crcBytes c = crcBytes d ↔ c = d := by
  refine ⟨fun h => ?_, congrArg crcBytes⟩
  obtain ⟨hlow, hhigh⟩ : crcLow c = crcLow d ∧ crcHigh c = crcHigh d := by simpa [crcBytes] using h
  rw [← joinCrc_crcLow_crcHigh c, hlow, hhigh, joinCrc_crcLow_crcHigh]

/-- A range that holds the body of a frame and its CRC, in these two parts (R70). -/
theorem body_and_crc_of_wireBytes {body : List Byte} {c : Word16} (hlen : body.length = n + 2)
    (h : wireBytes t off (n + 4) = body ++ crcBytes c) :
    wireBytes t off (n + 2) = body ∧ wireBytes t (off + (n + 2)) 2 = crcBytes c :=
  List.append_inj ((wireBytes_append t off (n + 2) 2).symm.trans h) (by simp [hlen])

/-- The registers that `SERIALIZE` writes (R130). -/
theorem succeed_storeFrame (off : Nat) (s : State) :
    succeed (storeFrame off s) =
      { s with
        wire := (storeFrame off s).wire, crcout := crc16 (frameBody s),
        len := BitVec.ofNat 12 (s.paylen.toNat + 4), err := 0#4 } := by
  simp only [succeed, storeFrame, setLen, setCrcout, writeWire]

/-- `SERIALIZE` puts the body of the frame held at `off`, and its CRC behind the body (R130). -/
theorem body_and_crc_of_storeFrame (off : Nat) (s : State) :
    wireBytes (storeFrame off s) off (s.paylen.toNat + 2) = frameBody s ∧
      wireBytes (storeFrame off s) (off + (s.paylen.toNat + 2)) 2 =
        crcBytes (crc16 (frameBody s)) :=
  body_and_crc_of_wireBytes (frameBody_length s) (wireBytes_storeFrame off s)

/-- A byte of the body of the frame held, where `SERIALIZE` puts it (R130). -/
theorem frameBody_getElem? {k : Nat} (off : Nat) (h : k < s.paylen.toNat + 2) :
    (frameBody s)[k]? = some (wireByte (storeFrame off s) (off + k)) := by
  obtain ⟨hbody, -⟩ := body_and_crc_of_storeFrame off s
  rw [← hbody, List.getElem?_eq_getElem (by simpa using h), wireBytes_getElem]

/-- The body of the frame that `PARSE` loads is the range it reads but for the last two bytes, which
carry the CRC received (R120). -/
theorem body_and_crc_of_loadFrame (hn : n ≤ s.cfg.bufSize) :
    frameBody (succeed (loadFrame off (n + 4) s)) = wireBytes s off (n + 2) ∧
      wireBytes s (off + (n + 2)) 2 = crcBytes (receivedCrc s off (n + 4)) := by
  have hlen : (frameBody (loadFrame off (n + 4) s)).length = n + 2 := by
    rw [frameBody_length, loadFrame_paylen_toNat off hn]
  obtain ⟨hbody, hcrc⟩ := body_and_crc_of_wireBytes hlen (frameBody_loadFrame hn).symm
  exact ⟨hbody.symm, hcrc⟩

/-- The frame held after `SETEXC` has the one payload byte `code` (R133). -/
theorem frameBody_after_setexc (code : Byte) (s : State) :
    frameBody (succeed (commandEffect (.setexc code) s)) =
      [s.station, 0x80#8 ||| s.func.setWidth 8, code] :=
  congrArg (fun bs => s.station :: functionByte 1#1 s.func :: bs)
    (payloadBytes_writePayload_same (setExc 1#1 s) [code])

end

/-- Settles O11: the words by their fields, the error by the length of the frame, the effect by the
part of WIRE read, and the example by the body of its frame. -/
theorem serializeWritesTheFrame : Obligations.SerializeWritesTheFrame := by
  refine ⟨fun off hoff => commandWord_operand 0x03#8 hoff, fun w s hop hb => ?illegal,
    fun off s => ⟨exec_serialize_of_misfit, fun hpay => ?tooLong, fun hfit => ?fits⟩,
    fun s h8 hstation hfunc hexc hpaylen hpay => ?testFrame⟩
  case illegal => exact runCommand_of_illegal ((not_legalFields_iff w).2 (by omega))
  case tooLong =>
    have := paySize_add_four s.cfg
    exact exec_serialize_of_misfit (by omega)
  case fits =>
    intro n body c
    obtain ⟨hlow, hhigh⟩ := wireBytes_two_eq_crcBytes.1 (body_and_crc_of_storeFrame off s).2
    exact ⟨succeed (storeFrame off s), exec_of_fits (i := .serialize off) hfit,
      succeed_storeFrame off s, fun k hk => frameBody_getElem? off hk, hlow, hhigh,
      fun a ha => wireByte_storeFrame_out (s := s) (off := off) (a := a) (by omega)⟩
  case testFrame =>
    have hbody : frameBody s = [0x01#8, 0x03#8, 0x00#8, 0x00#8, 0x00#8, 0x01#8] := by
      rw [frameBody, hstation, hexc, hfunc, hpaylen]
      exact congrArg (fun bs => 0x01#8 :: 0x03#8 :: bs) hpay
    have hwire := wireBytes_storeFrame 0 s
    rw [hbody, crc16_testFrame, hpaylen, wireBytes_zero] at hwire
    have hfit : 0 + s.paylen.toNat + 4 ≤ s.cfg.bufSize := by simpa [hpaylen] using h8
    refine ⟨by decide, _, exec_of_fits (i := .serialize 0) hfit, hwire, ?_, ?_, rfl⟩
    · exact (congrArg crc16 hbody).trans crc16_testFrame
    · exact congrArg (fun p : BitVec 12 => BitVec.ofNat 12 (p.toNat + 4)) hpaylen

/-- The CRC of the document's exception frame (R133). -/
theorem crc16_exceptionFrame : crc16 [0x01#8, 0xE3#8, 0x01#8] = 0xF0A8#16 := by decide +kernel

/-- Settles O12: the words by their fields, the effect by the byte read, and the `SERIALIZE` that
follows by the body of the frame then held. -/
theorem setexcMakesAnExceptionFrame : Obligations.SetexcMakesAnExceptionFrame := by
  refine ⟨fun code => ?word, fun w s hop hz => ?illegal,
    fun code s => ⟨_, exec_of_fits (i := .setexc code) trivial, rfl, ?code, fun k hk => ?above,
      fun off hfit => ?next⟩,
    fun s hstation hfunc _ _ => ?exceptionFrame⟩
  case word =>
    have := code.isLt
    rw [encode, ← BitVec.ofNat_toNat, ← BitVec.ofNat_toNat]
    exact commandWord_operand 0x04#8 (by omega)
  case illegal => exact runCommand_of_illegal ((not_legalFields_iff w).2 (by omega))
  case code => exact (payloadByte_writePayload_single (setExc 1#1 s) 0 0 code).trans (if_pos rfl)
  case above =>
    exact (payloadByte_writePayload_single (setExc 1#1 s) 0 k code).trans (if_neg (by omega))
  case next =>
    obtain ⟨u, hu, -, -, -, hwire⟩ :=
      exec_serialize_of_fits (s := succeed (commandEffect (.setexc code) s)) (off := off) hfit
    obtain ⟨-, hfb, -, -⟩ := frame_on_wire hwire
    exact ⟨u, hu, hfb⟩
  case exceptionFrame =>
    have hfb : 0x80#8 ||| (0x63#7).setWidth 8 = 0xE3#8 := by decide
    have hbody := frameBody_after_setexc 0x01#8 s
    rw [hstation, hfunc, hfb] at hbody
    obtain ⟨u, hu, -, hcrcout, hlen, hwire⟩ :=
      exec_serialize_of_fits (s := succeed (commandEffect (.setexc 0x01#8) s)) (off := 0)
        s.cfg.bufSize_ge
    rw [hbody, crc16_exceptionFrame] at hcrcout
    rw [hbody, crc16_exceptionFrame, wireBytes_zero] at hwire
    exact ⟨by decide, _, u, exec_of_fits (i := .setexc 0x01#8) trivial, hu, rfl, rfl,
      (payloadByte_writePayload_single (setExc 1#1 s) 0 0 0x01#8).trans (if_pos rfl), hwire,
      BitVec.eq_of_toNat_eq hlen, hcrcout⟩

/-- Settles O35: the body and the CRC stored do not depend on `FCRC`, and `CHECK` finds the CRC of
the body behind the body. -/
theorem serializedFramePassesCheck : Obligations.SerializedFramePassesCheck := by
  refine ⟨fun off s t x h => ?fcrc, fun off s t h herr => ?check⟩
  case fcrc =>
    obtain ⟨hfit, rfl⟩ | ⟨hmisfit, rfl⟩ := execSerialize_cases h
    · exact exec_of_fits (i := .serialize off) (s := { s with fcrc := x }) hfit
    · exact exec_serialize_of_misfit (s := { s with fcrc := x }) hmisfit
  case check =>
    obtain ⟨hfit, rfl⟩ | ⟨-, rfl⟩ := execSerialize_cases h
    · have hlen : (succeed (storeFrame off s)).len.toNat = s.paylen.toNat + 4 :=
        toNat_ofNat_frameLength s.cfg (by omega)
      obtain ⟨hbody, hcrc⟩ := body_and_crc_of_storeFrame off s
      rw [← hbody] at hcrc
      obtain ⟨hlow, hhigh⟩ := wireBytes_two_eq_crcBytes.1 hcrc
      rw [hlen]
      obtain ⟨u, hu, huerr, -, hmatch⟩ :=
        exec_check_of_fits (s := succeed (storeFrame off s)) (off := off)
          (cnt := s.paylen.toNat + 4) ⟨by omega, Nat.add_assoc .. ▸ hfit⟩
      refine ⟨hlow, hhigh, u, hu, hmatch.2 ?_, huerr⟩
      rw [← joinCrc_crcLow_crcHigh (crc16 _)]
      exact (congrArg₂ joinCrc hlow hhigh).symm
    · exact absurd herr (errorCode_ne_zero .range)

/-- Settles O37: the body that `PARSE` loads is the body that `SERIALIZE` stores, and each range ends
with the bytes of its CRC, which name one CRC only. -/
theorem serializeOfParseIsTheRange : Obligations.SerializeOfParseIsTheRange := by
  intro off off2 cnt s h4 hfit hfit2
  obtain ⟨n, rfl⟩ : ∃ n, cnt = n + 4 := ⟨cnt - 4, by omega⟩
  have hn : n ≤ s.cfg.bufSize := by omega
  have hpaylen : (succeed (loadFrame off (n + 4) s)).paylen.toNat = n :=
    loadFrame_paylen_toNat off hn
  obtain ⟨hbody, hcrc⟩ := body_and_crc_of_loadFrame (off := off) hn
  obtain ⟨u, hu, -, -, hlen, hwire⟩ :=
    exec_serialize_of_fits (s := succeed (loadFrame off (n + 4) s)) (off := off2)
      (hpaylen.symm ▸ hfit2)
  rw [hpaylen] at hlen
  rw [hpaylen, hbody] at hwire
  obtain ⟨hbody2, hcrc2⟩ := body_and_crc_of_wireBytes (wireBytes_length ..) hwire
  have hlast : wireBytes u (off2 + (n + 2)) 2 = wireBytes s (off + (n + 2)) 2 ↔
      receivedCrc s off (n + 4) = crc16 (wireBytes s off (n + 2)) := by
    rw [hcrc, hcrc2, crcBytes_inj, eq_comm]
  exact ⟨_, u, exec_of_fits (i := .parse off (n + 4)) ⟨h4, hfit⟩, hu, hbody2, hlen, hlast⟩

end Sys2Proof.Machine

/-! O13 and O38. A range as the body of a frame and the CRC it carries, and the two errors of
`CHECK`. -/

namespace Sys2Proof.Machine

section
variable {s : State} {off cnt n : Nat}

/-- A range of `n + 4` bytes ends with the CRC it carries, low byte first (R70, R145). -/
theorem wireBytes_body_receivedCrc (s : State) (off n : Nat) :
    wireBytes s off (n + 4) =
      wireBytes s off (n + 2) ++ crcBytes (receivedCrc s off (n + 4)) := by
  have hlast : wireBytes s (off + (n + 2)) 2 = crcBytes (receivedCrc s off (n + 4)) :=
    wireBytes_two_eq_crcBytes.2 ⟨(crcLow_joinCrc _ _).symm, (crcHigh_joinCrc _ _).symm⟩
  rw [← hlast]
  exact wireBytes_append s off (n + 2) 2

/-- The residue law for a frame in WIRE (R146 (d)). -/
theorem crc16_wireBytes_eq_zero_iff :
    crc16 (wireBytes s off (n + 4)) = 0#16 ↔
      crc16 (wireBytes s off (n + 2)) = receivedCrc s off (n + 4) := by
  rw [wireBytes_body_receivedCrc, crcBytes, crc16_residue_iff, joinCrc_crcLow_crcHigh]

/-- `PARSE` leaves WIRE, so `CHECK` after it judges the bytes that were parsed (R146 (a)). -/
theorem exec_check_after_parse (h4 : 4 ≤ cnt) (hfit : off + cnt ≤ s.cfg.bufSize) :
    ∃ t, exec (.check off cnt) (succeed (loadFrame off cnt s)) = .next t ∧ t.err = 0#4 ∧
      t.crcout = crc16 (wireBytes s off (cnt - 2)) ∧
      (t.matched = true ↔ crc16 (wireBytes s off (cnt - 2)) = receivedCrc s off cnt) :=
  exec_check_of_fits (s := succeed (loadFrame off cnt s)) ⟨h4, hfit⟩

/-- `CHECK` of a range it does not admit: `MATCH` is cleared and the error raised (R145). -/
theorem exec_check_of_misfit (h : ¬ commandFits (.check off cnt) s) :
    exec (.check off cnt) s = .next (failCheck (frameRangeError cnt) s) :=
  exec_of_misfit h

/-- `CHECK` of a range that holds a body and a CRC behind it (R145). -/
theorem exec_check_of_frame {body : List Byte} {c : Word16} (hlen : body.length = n + 2)
    (hfit : off + (n + 4) ≤ s.cfg.bufSize) (h : wireBytes s off (n + 4) = body ++ crcBytes c) :
    exec (.check off (n + 4)) s =
      .next { s with crcout := crc16 body, matched := crc16 body == c, err := 0#4 } := by
  obtain ⟨hbody, hcrc⟩ : _ ∧ crcBytes (receivedCrc s off (n + 4)) = crcBytes c :=
    List.append_inj ((wireBytes_body_receivedCrc s off n).symm.trans h) (by simp [hlen])
  rw [← crcBytes_inj.1 hcrc, ← hbody]
  exact exec_of_fits (i := .check off (n + 4)) ⟨Nat.le_add_left 4 n, hfit⟩

/-- `CHECK` of the document's test frame, whatever CRC it carries. -/
theorem exec_check_testFrame {c : Word16} (h8 : 8 ≤ s.cfg.bufSize)
    (h : (List.range 8).map (wireByte s) =
      [0x01#8, 0x03#8, 0x00#8, 0x00#8, 0x00#8, 0x01#8] ++ crcBytes c) :
    exec (.check 0 8) s =
      .next { s with crcout := 0x0A84#16, matched := 0x0A84#16 == c, err := 0#4 } := by
  rw [← wireBytes_zero] at h
  rw [exec_check_of_frame (n := 4) rfl h8 h, crc16_testFrame]

end

/-- Settles O13: the word by its fields, the errors by which test fails first, the effect by whether
the range fits, and the two examples by the CRC that each frame carries. -/
theorem checkComparesTheCrc : Obligations.CheckComparesTheCrc := by
  refine ⟨fun off cnt hoff hcnt => commandWord_operands 0x05#8 hoff hcnt,
    fun off cnt s => ⟨fun hs => ?short, fun h4 hout => ?outside,
      fun h4 hfit => exec_of_fits (i := .check off cnt) ⟨h4, hfit⟩⟩,
    fun s h8 hwire => ⟨by decide, exec_check_testFrame (c := 0x0A84#16) h8 hwire⟩,
    fun s h8 hwire => exec_check_testFrame (c := 0x0A85#16) h8 hwire⟩
  case short =>
    rw [exec_check_of_misfit fun hf => Nat.not_lt.2 hf.1 hs, frameRangeError, if_pos hs]
    rfl
  case outside =>
    rw [exec_check_of_misfit fun hf => Nat.not_lt.2 hf.2 hout, frameRangeError,
      if_neg (Nat.not_lt.2 h4)]
    rfl

/-- Settles O38: `MATCH` says that the CRC of the body is the CRC carried; `PARSE` loads that body and
that CRC and leaves WIRE, and the residue law says the same of the whole range. -/
theorem checkAgreesWithTheOtherCommands : Obligations.CheckAgreesWithTheOtherCommands := by
  refine ⟨fun off cnt s h4 hfit => ?range, fun off s hfit => ?serialized⟩
  case range =>
    obtain ⟨n, rfl⟩ : ∃ n, cnt = n + 4 := ⟨cnt - 4, by omega⟩
    obtain ⟨hbody, -⟩ := body_and_crc_of_loadFrame (s := s) (off := off) (n := n) (by omega)
    obtain ⟨k, hk, -, hcrcout, hmatch⟩ := exec_check_after_parse h4 hfit
    rw [show n + 4 - 2 = n + 2 from rfl] at hcrcout hmatch
    have hprefix : off + (n + 2) ≤ s.cfg.bufSize := by omega
    refine ⟨_, k, _, _, exec_of_fits (i := .parse off (n + 4)) ⟨h4, hfit⟩, hk,
      exec_of_fits (i := .crc16 off (n + 4)) hfit, exec_of_fits (i := .crc16 off (n + 2)) hprefix,
      ?fcrc, ?consistent, hmatch.trans crc16_wireBytes_eq_zero_iff.symm, hcrcout⟩
    case fcrc => rwa [hcrcout]
    case consistent => rw [frameConsistent_iff, commandEffect, hbody, hmatch, eq_comm]; rfl
  case serialized =>
    have ht := exec_of_fits (i := .serialize off) hfit
    obtain ⟨-, -, u, hu, hmatched, -⟩ := serializedFramePassesCheck.2 off s _ ht rfl
    exact ⟨_, u, ht, hu, hmatched⟩

end Sys2Proof.Machine

/-! O7 and O15 to O17. What a command writes to `STATUS`: the state it leaves when it fails, the code
that the fields of its word choose, and `ERRSTK` after each kind of step. -/

namespace Sys2Proof.Machine

section
variable {s t : State} {i : Instr} {w : Word32} {tgt : Target} {rest : List HostEvent}

/-- A host write to `CMD` runs the word written, legal or not (R31, R61). -/
theorem step_cmd (he : s.events = .access ⟨.write w, 32, 0x0000⟩ :: rest) :
    step s = runCommand w (setEvents rest s) :=
  step_write he rfl (mapTarget_register s.cfg (tgt := .cmd) (by simp [registerMap]))

/-- `MATCH` after a failure, by the opcode (R145, R204). -/
theorem matchOnFailure_eq (i : Instr) (s : State) :
    matchOnFailure i s = if opcodeOf i = 5 then false else s.matched := by
  cases i <;> rfl

/-- An illegal word is no `CHECK`: opcode 5 leaves no field that must be zero (R85). -/
theorem opcode_ne_check_of_illegal {e : DecodeError} (h : decode w = .illegal e) :
    w.toNat / 2 ^ 24 ≠ 5 := by
  have := (not_legalFields_iff w).1 (decode_illegal_iff.1 ⟨e, h⟩)
  omega

/-- A command word that ends with an error changes `STATUS` alone (R204). -/
theorem runCommand_of_err_ne_zero (h : runCommand w s = .next t) (herr : t.err ≠ 0#4) :
    t = { s with
      err := t.err, errstk := true,
      matched := if w.toNat / 2 ^ 24 = 5 then false else s.matched } := by
  obtain ⟨i, hw, hi⟩ | ⟨_, hw, rfl⟩ := runCommand_cases h
  · obtain ⟨-, rfl⟩ | ⟨-, e, rfl⟩ := exec_ends hi
    · exact absurd rfl herr
    · rw [decode_opcode hw, ← matchOnFailure_eq]
      rfl
  · rw [if_neg (opcode_ne_check_of_illegal hw)]
    rfl

/-- The code that the fields of a legal word choose, the length of the range judged before its place
(R205). -/
def operandCode (w : Word32) (s : State) : BitVec 4 :=
  let op := w.toNat / 2 ^ 24
  let b := w.toNat / 2 ^ 12 % 2 ^ 12
  let a := w.toNat % 2 ^ 12
  if (op = 2 ∨ op = 5) ∧ b < 4 then 1#4
  else if ((op = 1 ∨ op = 2 ∨ op = 5) ∧ s.cfg.bufSize < a + b) ∨
      (op = 3 ∧ s.cfg.bufSize < a + s.paylen.toNat + 4) then 2#4
  else 0#4

/-- The code that a command leaves in `ERR`, by its operands. -/
def errAfter : Instr → State → BitVec 4
  | .crc16 off cnt, s => if s.cfg.bufSize < off + cnt then 2#4 else 0#4
  | .parse off cnt, s | .check off cnt, s =>
    if cnt < 4 then 1#4 else if s.cfg.bufSize < off + cnt then 2#4 else 0#4
  | .serialize off, s => if s.cfg.bufSize < off + s.paylen.toNat + 4 then 2#4 else 0#4
  | .setexc _, _ => 0#4

theorem errAfter_of_fits (h : commandFits i s) : errAfter i s = 0#4 := by
  cases i with
  | crc16 | serialize => exact if_neg (Nat.not_lt.2 h)
  | parse | check => exact (if_neg (Nat.not_lt.2 h.1)).trans (if_neg (Nat.not_lt.2 h.2))
  | setexc => rfl

theorem errAfter_of_misfit (h : ¬ commandFits i s) : errAfter i s = errorCode (commandError i) := by
  cases i with
  | crc16 | serialize => exact if_pos (Nat.not_le.1 h)
  | parse off cnt | check off cnt =>
    by_cases hs : cnt < 4
    · simp [errAfter, commandError, frameRangeError, hs, errorCode]
    · have hr : s.cfg.bufSize < off + cnt := Nat.not_le.1 fun hr => h ⟨Nat.not_lt.1 hs, hr⟩
      simp [errAfter, commandError, frameRangeError, hs, hr, errorCode]
  | setexc => exact absurd trivial h

theorem exec_err (h : exec i s = .next t) : t.err = errAfter i s := by
  by_cases hfit : commandFits i s
  · rw [exec_of_fits hfit] at h
    cases h
    exact (errAfter_of_fits hfit).symm
  · rw [exec_of_misfit hfit] at h
    cases h
    exact (errAfter_of_misfit hfit).symm

/-- The fields of a word choose the code of the command that the word selects. -/
theorem operandCode_of_selects (hw : SelectsCommand w i) (s : State) :
    operandCode w s = errAfter i s := by
  have hop := decode_opcode (decode_eq_command_iff.2 hw)
  rw [operandCode, hop, ← aField_toNat, ← bField_toNat]
  obtain ⟨-, rfl, rfl⟩ | ⟨-, rfl, rfl⟩ | ⟨-, rfl, -⟩ | - | ⟨-, rfl, rfl⟩ := hw <;>
    simp [opcodeOf, errAfter]

theorem any_row_eq_false_iff :
    opcodeRows.any (fun r => rowMatches r w) = false ↔ ¬ LegalFields w := by
  rw [← no_row_iff]
  simp

@[simp] theorem commandEffect_errstk (i : Instr) (s : State) :
    (commandEffect i s).errstk = s.errstk := by
  cases i <;> rfl

/-- A command sets `ERRSTK` when it fails, and otherwise keeps it (R207). -/
theorem exec_errstk (h : exec i s = .next t) : t.errstk = (s.errstk || decide (t.err ≠ 0#4)) := by
  obtain ⟨-, rfl⟩ | ⟨-, e, rfl⟩ := exec_ends h <;> simp

theorem runCommand_errstk (h : runCommand w s = .next t) :
    t.errstk = (s.errstk || decide (t.err ≠ 0#4)) := by
  obtain ⟨i, -, hi⟩ | ⟨_, -, rfl⟩ := runCommand_cases h
  · exact exec_errstk hi
  · simp

/-- `ERRSTK` after a host write, by the offset of the word written (R207). -/
theorem writeTarget_errstk (h : writeTarget w s tgt = .next t) :
    t.errstk =
      if targetOffset tgt = 0x0000 then s.errstk || decide (t.err ≠ 0#4)
      else if targetOffset tgt = 0x0004 ∧ w.getLsbD 5 = true then false
      else s.errstk := by
  obtain ⟨rfl, hc⟩ | ⟨rfl, rfl⟩ | ⟨rfl, rfl⟩ | ⟨rfl, rfl⟩ | ⟨rfl, rfl⟩ | ⟨rfl, rfl⟩ | ⟨rfl, rfl⟩ |
    ⟨k, rfl, rfl⟩ | ⟨k, rfl, rfl⟩ := writeTarget_cases h
  · exact runCommand_errstk hc
  · simp [targetOffset, writeStatus_eq]
  -- the five frame registers
  iterate 5 simp [targetOffset]
  · have hoff : 0x4000 + 4 * k ≠ 0x0004 := by omega
    simp [targetOffset, hoff]
  · have hoff : 0x8000 + 4 * k ≠ 0x0004 := by omega
    simp [targetOffset, hoff]

end

/-- Settles O7: `step` with nothing to take. -/
theorem idleStepWaits : Obligations.IdleStepWaits := by
  intro s he
  rw [step, he]

/-- Settles O15: the step runs the word, and a word that fails changes `STATUS` alone. -/
theorem commandErrorChangesStatusAlone : Obligations.CommandErrorChangesStatusAlone := by
  intro s t w rest he h herr
  rw [step_cmd he] at h
  exact runCommand_of_err_ne_zero h herr

/-- Settles O16: an illegal word matches no row, and a legal one selects the command whose operands
choose the code. -/
theorem errorPriorityDecidesTheCode : Obligations.ErrorPriorityDecidesTheCode := by
  refine ⟨fun s w rest he => ?_, fun s => ⟨_, exec_parse_of_short (by decide), rfl⟩⟩
  obtain ⟨t, ht⟩ := runCommand_answers w (setEvents rest s)
  refine ⟨t, (step_cmd he).trans ht, ?_⟩
  obtain ⟨i, hw, hi⟩ | ⟨e, hw, rfl⟩ := runCommand_cases ht
  · have hsel := decode_eq_command_iff.1 hw
    have hlegal : LegalFields w := legalFields_iff_selects.2 ⟨i, hsel⟩
    rw [if_neg fun hany => any_row_eq_false_iff.1 hany hlegal]
    exact (exec_err hi).trans (operandCode_of_selects hsel (setEvents rest s)).symm
  · exact (if_pos (any_row_eq_false_iff.2 (decode_illegal_iff.1 ⟨e, hw⟩))).symm

/-- Settles O17: `ERRSTK` by what the step takes, and for a write by the offset of its word; a `CHECK`
that mismatches ends with `ERR` 0. -/
theorem stickyBitRule : Obligations.StickyBitRule := by
  refine ⟨fun s t h => ?_, fun off cnt s t h herr _ => ?_⟩
  · obtain ⟨he, rfl⟩ | ⟨rest, he, rfl⟩ | ⟨a, rest, he, ha⟩ := step_cases h
    · rw [he]
    · rw [he]; rfl
    · obtain ⟨-, hal, tgt, hmap, ⟨hop, rfl⟩ | ⟨v, hop, hw⟩⟩ := hostAccess_cases ha
      · simp only [he, hop]; rfl
      · simp only [he, hop]
        rw [offset_of_mapTarget hal hmap]
        exact writeTarget_errstk (s := setEvents rest s) hw
  · simpa [herr] using exec_errstk h

end Sys2Proof.Machine

/-! O8, O42 and O43. The state that a reset leaves, and the commands run with another value in
`FCRC`. -/

namespace Sys2Proof.Machine

section
variable (cfg : Config) (epoch : Nat) (events : List HostEvent) (replies : List Word32)

/-- The state of an instance when a reset ends (R38), whatever the model's own fields hold. -/
def resetState : State :=
  { State.resetOf cfg with epoch := epoch, events := events, replies := replies }

theorem reset_eq_resetState : State.reset = resetState Config.default 0 [] [] := rfl

theorem applyReset_eq_resetState (s : State) :
    applyReset s = resetState s.cfg (s.epoch + 1) s.events s.replies := rfl

theorem statusWord_resetState : statusWord (resetState cfg epoch events replies) = 0#32 :=
  statusWord_eq _

/-- With `PAYLEN` 0 the frame held is defined in every instance (R27). -/
theorem heldFrame_resetState :
    heldFrame (resetState cfg epoch events replies) =
      some { station := 0x00#8, function := 0x00#7, isException := false, payload := [],
             crc := 0x0000#16 } :=
  if_pos (Nat.zero_le cfg.paySize)

theorem frameBody_resetState :
    frameBody (resetState cfg epoch events replies) = [0x00#8, 0x00#8] := by
  have hfb : functionByte 0#1 0x00#7 = 0x00#8 := by decide
  exact congrArg ([0x00#8, ·]) hfb

/-- The value that R231 names. -/
theorem crc16_zeroBody : crc16 [0x00#8, 0x00#8] = 0xB001#16 := by
  simp [crc16, crcUpdate, bitstep, crcSeed, crcPoly]

/-- The `FCRC` of a reset is not the CRC of the body it leaves (R231). -/
theorem not_frameConsistent_resetState :
    frameConsistent (resetState cfg epoch events replies) = false := by
  rw [frameConsistent, frameBody_resetState, crc16_zeroBody]
  rfl

end

/-- A step that finds the reset takes it (R230). -/
theorem step_reset {s : State} {rest : List HostEvent} (he : s.events = .reset :: rest) :
    step s = .next (applyReset (setEvents rest s)) := by
  rw [step, he]
  rfl

section
variable {s t : State} {i : Instr}

theorem commandFits_setFcrc (i : Instr) (x : Word16) (s : State) :
    commandFits i (setFcrc x s) ↔ commandFits i s :=
  commandFits_congr rfl fun _ => rfl

/-- The effect of a command depends on `FCRC` in `FCRC` alone: `PARSE` loads it from WIRE, and the
others keep it (R39). -/
theorem commandEffect_setFcrc (i : Instr) (x : Word16) (s : State) :
    ∃ y, commandEffect i (setFcrc x s) = setFcrc y (commandEffect i s) := by
  cases i with
  | parse off cnt => exact ⟨receivedCrc s off cnt, rfl⟩
  | crc16 | serialize | setexc | check => exact ⟨x, rfl⟩

theorem matchOnFailure_setFcrc (i : Instr) (x : Word16) (s : State) :
    matchOnFailure i (setFcrc x s) = matchOnFailure i s := by
  rw [matchOnFailure_eq, matchOnFailure_eq, setFcrc_matched]

/-- No command reads `FCRC`: another value in it changes the answer in `FCRC` alone (R231). -/
theorem exec_setFcrc (x : Word16) (h : exec i s = .next t) :
    ∃ y, exec i (setFcrc x s) = .next (setFcrc y t) := by
  have hagain := commandFits_setFcrc i x s
  by_cases hfit : commandFits i s
  · obtain rfl : succeed (commandEffect i s) = t := by simpa [exec_of_fits hfit] using h
    obtain ⟨y, hy⟩ := commandEffect_setFcrc i x s
    exact ⟨y, by rw [exec_of_fits (hagain.2 hfit), hy]; rfl⟩
  · obtain rfl : raiseError (commandError i) (setMatched (matchOnFailure i s) s) = t := by
      simpa [exec_of_misfit hfit] using h
    exact ⟨x, by rw [exec_of_misfit (hagain.not.2 hfit), matchOnFailure_setFcrc]; rfl⟩

end

/-- Settles O8: a command that fits ends with its effect, and one that does not with its
error. -/
theorem everyCommandCompletes : Obligations.EveryCommandCompletes := exec_answers

/-- Settles O42: the state at the start and the state that a reset step leaves are both a
`resetState`, and a command answers with what it would answer for any other `FCRC`. -/
theorem resetGivesTheTable : Obligations.ResetGivesTheTable := by
  unfold Obligations.ResetGivesTheTable
  intro table
  have htable (cfg : Config) (epoch : Nat) (events : List HostEvent) (replies : List Word32) :
      table (resetState cfg epoch events replies) :=
    ⟨rfl, rfl, rfl, rfl, rfl, rfl, rfl, statusWord_resetState .., heldFrame_resetState ..,
      not_frameConsistent_resetState ..⟩
  refine ⟨reset_eq_resetState ▸ htable .., crc16_zeroBody, fun s rest he => ?_,
    fun i s t x => exec_setFcrc x⟩
  exact ⟨_, step_reset he, applyReset_eq_resetState _ ▸ htable ..⟩

/-- Settles O43: the step leaves the same instance, and both memories with no byte written in the
next epoch. -/
theorem resetForgetsTheMemories : Obligations.ResetForgetsTheMemories :=
  fun _ _ he => ⟨_, step_reset he, rfl, fun _ => rfl, fun _ => rfl⟩

end Sys2Proof.Machine
